-- ==== Sys2Proof/Word.lean ====
section
/-! DEFINITION. The word types of the hardware: its bytes, and the signed value the codec outputs. -/

namespace Sys2Proof

/-- One byte of the Capture Buffer, of the carry store or of the `in_data` port (10_state.md R20). -/
abbrev Byte := BitVec 8

/-- The 14 value bits of a Sample Record as they stand in it, `raw14` (30_encoding.md R72). -/
abbrev Raw14 := BitVec 14

/-- The decoded value, `VALUE_W = 16` bits in two's complement (00_scope.md R9). -/
abbrev Value := BitVec 16

/-- A tag, the top two bits of a record (30_encoding.md R71). -/
abbrev Tag := BitVec 2

end Sys2Proof
end

