-- ==== Sys2Proof/Config.lean ====
section
/-! DEFINITION. What one instance of the hardware fixes (the parameters of 00_scope.md section 3) and the values
the spec leaves free. -/

namespace Sys2Proof

/-- `REC_ORDER` (00_scope.md R8): which byte of a record carries the tag. `hiFirst` is the value for this hardware;
`loFirst` is the alternative of 20_memory.md R56, carried as a configuration field (log 13). -/
inductive RecOrder where
  | hiFirst
  | loFirst
deriving DecidableEq, Repr

/-- The parameters of one instance. A `CAPACITY` below 15 is refused at construction (00_scope.md R5,
93_implementation_defined.md U17): no such record can be built. -/
structure Params where
  /-- `CAPACITY`: the bytes of the Capture Buffer. -/
  capacity : Nat
  /-- The least legal `CAPACITY` (00_scope.md R5). -/
  capacity_ge : 15 ≤ capacity
  /-- `REC_ORDER`. -/
  recOrder : RecOrder
deriving DecidableEq, Repr

namespace Config

/-- `PENDING_W`, the width of the `pending_units` port (00_scope.md R7). -/
def pendingWidth : Nat := 16

/-- `ADDR_W = ceil(log2(CAPACITY + 1))` (00_scope.md R6), which is one more than the floor of the logarithm of
`CAPACITY`. -/
def addrWidth (capacity : Nat) : Nat := Nat.log2 capacity + 1

/-- The instance `State.reset` describes. DESIGN CHOICE (log 2): the spec leaves `CAPACITY` open; 16 is the one number
the source uses. `HI_FIRST` is the spec's (00_scope.md R8). -/
def resetParams : Params := { capacity := 16, capacity_ge := by decide, recOrder := .hiFirst }

/-- FREE VALUE (log 6): what `get_tag` shows in a step without a `GET` answered `OK`
(93_implementation_defined.md U3). -/
opaque freeGetTag : Nat → Tag

/-- FREE VALUE (log 6): what `get_value` shows in a step without a `GET` answered `OK`
(93_implementation_defined.md U3). -/
opaque freeGetValue : Nat → Value

end Config

end Sys2Proof
end

