-- ==== Sys2Proof/Syntax.lean ====
section
/-! DEFINITION. The operations of the hardware, one constructor per row of spec/opcode_table.json, and the port
words that carry them. -/

namespace Sys2Proof

/-- The axis operand of `GET`; its number is the tag number (30_encoding.md R71, 40_codec.md R93). -/
inductive Axis where
  | x
  | y
  | z
  | t
deriving DecidableEq, Repr

/-- One label of the machine: a record at the codec's input (`REC.*`), a host command (30_encoding.md R76), a
transport event (R77) or the reset (70_reset_and_hazards.md R180). Counts are naturals (00_scope.md R6, R7); the widths of
their ports are checked by `Instr.wellFormed`. -/
inductive Instr where
  | recX (v : Raw14)
  | recY (v : Raw14)
  | recZ (v : Raw14)
  | recT (v : Raw14)
  | nop
  | cfg (storeTemp : Bool)
  | issue (pendingUnits : Nat) (xportBusy : Bool)
  | get (index : Nat) (axis : Axis)
  | release
  | reserved101
  | reserved110
  | reserved111
  | teIdle
  | byte (inData : Byte)
  | doneOk
  | doneFail
  | reset
deriving DecidableEq, Repr

/-- The four formats of the opcode table. -/
inductive Format where
  | rec16
  | hc
  | te
  | pin
deriving DecidableEq, Repr

/-- The host's input ports in one step (30_encoding.md R75). `get_index` has `ADDR_W` bits, a width that depends on
`CAPACITY`, so it is held as a number. -/
structure HostPorts where
  cmdOp : BitVec 3
  cfgStoreTemp : BitVec 1 := 0
  pendingUnits : BitVec 16 := 0
  xportBusy : BitVec 1 := 0
  getIndex : Nat := 0
  getAxis : BitVec 2 := 0
deriving DecidableEq, Repr

/-- The transport's input ports in one step (30_encoding.md R75). -/
structure TransportPorts where
  tev : BitVec 2
  inData : Byte := 0
deriving DecidableEq, Repr

/-- What stands on one group of ports: the undecoded form of a label (30_encoding.md R81, last sentence). -/
inductive PortWord where
  /-- The 16 bits of a record, `b0` above `b1` (30_encoding.md R70). -/
  | record (word : BitVec 16)
  | host (ports : HostPorts)
  | transport (ports : TransportPorts)
  | resetPin (rst : BitVec 1)
deriving DecidableEq, Repr

/-- All input ports of the core in one clock (30_encoding.md R75). -/
structure Clock where
  rst : BitVec 1 := 0
  host : HostPorts := { cmdOp := 0 }
  transport : TransportPorts := { tev := 0 }
deriving DecidableEq, Repr

end Sys2Proof
end

