-- ==== Sys2Proof/Decode.lean ====
section
/-! DEFINITION. From port words to operations and back, and the arbitration of one clock's ports. -/

namespace Sys2Proof

/-- Why a port word is no operation. -/
inductive DecodeError where
  /-- The reset pin is presented low: `RESET` is `rst = 1` (70_reset_and_hazards.md R180). -/
  | resetPinLow
deriving DecidableEq, Repr

/-- The number of an axis: X = 0, Y = 1, Z = 2, T = 3 (30_encoding.md R71, 40_codec.md R93). -/
def Axis.code : Axis → Tag
  | .x => 0b00
  | .y => 0b01
  | .z => 0b10
  | .t => 0b11

/-- The axis with a given number, as the `get_axis` port gives it (30_encoding.md R75). -/
def Axis.ofCode (c : Tag) : Axis :=
  if c = 0b00 then .x else if c = 0b01 then .y else if c = 0b10 then .z else .t

/-- The tag of a record word, bits 15:14 (30_encoding.md R70). -/
def recordTag (w : BitVec 16) : Tag := w.extractLsb' 14 2

/-- The value bits of a record word, bits 13:0 (30_encoding.md R70). -/
def recordRaw (w : BitVec 16) : Raw14 := w.extractLsb' 0 14

/-- The record row of a 16-bit word (30_encoding.md R71). DESIGN CHOICE (log 15): the tag of a record word at the codec's
own input stands in bits 15:14 under either `REC_ORDER`; 20_memory.md R56 exchanges the bytes in `Decode`, `Encode` and the
detector and does not name the record words. -/
def decodeRecordWord (w : BitVec 16) : Instr :=
  match Axis.ofCode (recordTag w) with
  | .x => .recX (recordRaw w)
  | .y => .recY (recordRaw w)
  | .z => .recZ (recordRaw w)
  | .t => .recT (recordRaw w)

/-- The host command on the host's ports (30_encoding.md R76). -/
def decodeHost (h : HostPorts) : Instr :=
  if h.cmdOp = 0b000 then .nop
  else if h.cmdOp = 0b001 then .cfg (decide (h.cfgStoreTemp = 1))
  else if h.cmdOp = 0b010 then .issue h.pendingUnits.toNat (decide (h.xportBusy = 1))
  else if h.cmdOp = 0b011 then .get h.getIndex (Axis.ofCode h.getAxis)
  else if h.cmdOp = 0b100 then .release
  else if h.cmdOp = 0b101 then .reserved101
  else if h.cmdOp = 0b110 then .reserved110
  else .reserved111

/-- The transport event on the transport's ports (30_encoding.md R77). -/
def decodeTransport (e : TransportPorts) : Instr :=
  if e.tev = 0b00 then .teIdle
  else if e.tev = 0b01 then .byte e.inData
  else if e.tev = 0b10 then .doneOk
  else .doneFail

/-- The decoder: total on port words, rejecting by name. -/
def decode : PortWord → Except DecodeError Instr
  | .record w => .ok (decodeRecordWord w)
  | .host h => .ok (decodeHost h)
  | .transport e => .ok (decodeTransport e)
  | .resetPin r => if r = 1 then .ok .reset else .error .resetPinLow

/-- The port word of an operation; ports the operation does not use are zero (30_encoding.md R70, R75 to R77). A record
word has its tag in bits 15:14 under either `REC_ORDER` (log 15). -/
def encode : Instr → PortWord
  | .recX v => .record (0b00#2 ++ v)
  | .recY v => .record (0b01#2 ++ v)
  | .recZ v => .record (0b10#2 ++ v)
  | .recT v => .record (0b11#2 ++ v)
  | .nop => .host { cmdOp := 0b000 }
  | .cfg st => .host { cmdOp := 0b001, cfgStoreTemp := BitVec.ofBool st }
  | .issue units busy =>
      .host { cmdOp := 0b010, pendingUnits := BitVec.ofNat 16 units, xportBusy := BitVec.ofBool busy }
  | .get index axis => .host { cmdOp := 0b011, getIndex := index, getAxis := axis.code }
  | .release => .host { cmdOp := 0b100 }
  | .reserved101 => .host { cmdOp := 0b101 }
  | .reserved110 => .host { cmdOp := 0b110 }
  | .reserved111 => .host { cmdOp := 0b111 }
  | .teIdle => .transport { tev := 0b00 }
  | .byte d => .transport { tev := 0b01, inData := d }
  | .doneOk => .transport { tev := 0b10 }
  | .doneFail => .transport { tev := 0b11 }
  | .reset => .resetPin 1

/-- The same ports with every operand port that the opcode does not use at zero. -/
def HostPorts.used (h : HostPorts) : HostPorts :=
  if h.cmdOp = 0b001 then { cmdOp := h.cmdOp, cfgStoreTemp := h.cfgStoreTemp }
  else if h.cmdOp = 0b010 then
    { cmdOp := h.cmdOp, pendingUnits := h.pendingUnits, xportBusy := h.xportBusy }
  else if h.cmdOp = 0b011 then { cmdOp := h.cmdOp, getIndex := h.getIndex, getAxis := h.getAxis }
  else { cmdOp := h.cmdOp }

/-- The same ports with `in_data` at zero unless the event is `BYTE`. -/
def TransportPorts.used (e : TransportPorts) : TransportPorts :=
  if e.tev = 0b01 then e else { tev := e.tev }

/-- The part of a port word that the decoder reads. -/
def PortWord.used : PortWord → PortWord
  | .record w => .record w
  | .host h => .host h.used
  | .transport e => .transport e.used
  | .resetPin r => .resetPin r

/-- One row of spec/opcode_table.json: `encoding &&& mask = pattern` on the bits of its format. -/
structure Row where
  mnemonic : String
  format : Format
  width : Nat
  pattern : Nat
  mask : Nat
deriving DecidableEq, Repr

/-- The row of spec/opcode_table.json that an operation is. -/
def Instr.row : Instr → Row
  | .recX _ => ⟨"REC.X", .rec16, 16, 0x0000, 0xC000⟩
  | .recY _ => ⟨"REC.Y", .rec16, 16, 0x4000, 0xC000⟩
  | .recZ _ => ⟨"REC.Z", .rec16, 16, 0x8000, 0xC000⟩
  | .recT _ => ⟨"REC.T", .rec16, 16, 0xC000, 0xC000⟩
  | .nop => ⟨"NOP", .hc, 3, 0x0, 0x7⟩
  | .cfg _ => ⟨"CFG", .hc, 3, 0x1, 0x7⟩
  | .issue _ _ => ⟨"ISSUE", .hc, 3, 0x2, 0x7⟩
  | .get _ _ => ⟨"GET", .hc, 3, 0x3, 0x7⟩
  | .release => ⟨"RELEASE", .hc, 3, 0x4, 0x7⟩
  | .reserved101 => ⟨"RESERVED.101", .hc, 3, 0x5, 0x7⟩
  | .reserved110 => ⟨"RESERVED.110", .hc, 3, 0x6, 0x7⟩
  | .reserved111 => ⟨"RESERVED.111", .hc, 3, 0x7, 0x7⟩
  | .teIdle => ⟨"TE.IDLE", .te, 2, 0x0, 0x3⟩
  | .byte _ => ⟨"BYTE", .te, 2, 0x1, 0x3⟩
  | .doneOk => ⟨"DONE_OK", .te, 2, 0x2, 0x3⟩
  | .doneFail => ⟨"DONE_FAIL", .te, 2, 0x3, 0x3⟩
  | .reset => ⟨"RESET", .pin, 1, 0x1, 0x1⟩

/-- The format of a port word. -/
def PortWord.format : PortWord → Format
  | .record _ => .rec16
  | .host _ => .hc
  | .transport _ => .te
  | .resetPin _ => .pin

/-- The bits of a port word that a row of its format tests: the record word, `cmd_op`, `tev` or `rst`. -/
def PortWord.code : PortWord → Nat
  | .record w => w.toNat
  | .host h => h.cmdOp.toNat
  | .transport e => e.tev.toNat
  | .resetPin r => r.toNat

/-- The bits `w` of a table row of `nbits` bits on their ports, every operand port zero. A row of 16 bits is a record,
of 3 a `cmd_op`, of 2 a `tev`, of 1 the `rst` pin. Counted in whole bytes the last three are all 8 bits wide and their
codes overlap; 8 bits are then read as a `cmd_op` (log 9). -/
def tableWord (nbits w : Nat) : Option PortWord :=
  if nbits = 16 then (if w < 65536 then some (.record (BitVec.ofNat 16 w)) else none)
  else if nbits = 8 ∨ nbits = 3 then
    (if w < 8 then some (.host { cmdOp := BitVec.ofNat 3 w }) else none)
  else if nbits = 2 then (if w < 4 then some (.transport { tev := BitVec.ofNat 2 w }) else none)
  else if nbits = 1 then (if w < 2 then some (.resetPin (BitVec.ofNat 1 w)) else none)
  else none

/-- The instruction the decoder reads from the bits of an opcode-table row, numbered as the table numbers them. -/
def decodeTableWord (nbits w : Nat) : Option Instr :=
  match tableWord nbits w with
  | none => none
  | some pw =>
    match decode pw with
    | .ok i => some i
    | .error _ => none

/-- The labels of one clock, in order: `rst` wins over both other ports, which are ignored
(70_reset_and_hazards.md R180); else a non-idle event comes first and a non-`NOP` command after it
(30_encoding.md R80); a clock without an event is its host command. A clock of
an event and a `NOP` is the event alone (log 14). -/
def Clock.labels (c : Clock) : List PortWord :=
  if c.rst = 1 then [.resetPin 1]
  else if c.transport.tev = 0b00 then [.host c.host]
  else if c.host.cmdOp = 0b000 then [.transport c.transport]
  else [.transport c.transport, .host c.host]

end Sys2Proof
end

