-- ==== Sys2Proof/Machine/State.lean ====
section
/-! DEFINITION. The state of one instance, the reasons a step can stop, and the state after reset. -/

namespace Sys2Proof.Machine

/-- The lifecycle of the Capture Buffer (10_state.md R28); it takes the place of a program counter (R34). -/
inductive Phase where
  | free
  | pending
  | complete
deriving DecidableEq, Repr

/-- The response codes (30_encoding.md R78, 60_exceptions.md R151). -/
inductive Resp where
  | ok
  | notReady
  | rejPhase
  | rejXportBusy
  | rejArg
  | rejOp
deriving DecidableEq, Repr

/-- The bytes of the Capture Buffer that have been written, by offset (20_memory.md R50). In canonical form the offsets
rise strictly; an offset that is not listed holds no known byte (R60; log 1). -/
abbrev Memory := List Host.Cell

/-- The carry store: seven byte registers (10_state.md R23). -/
abbrev CarryStore := Vector Byte 7

/-- The output ports whose values belong to one step (30_encoding.md R75). The model's own field: it holds what the
last step drove, so that a response can be seen in the state. -/
structure Outputs where
  /-- `resp`; none where the spec gives the step no response (30_encoding.md R78, 93_implementation_defined.md U4). -/
  resp : Option Resp
  /-- `resp_samples`. -/
  respSamples : Nat
  /-- `get_tag`. -/
  getTag : Tag
  /-- `get_value`. -/
  getValue : Value
  /-- `xfer_start`. -/
  xferStart : Bool
  /-- What `sample_codec_extract` answers to a record presented at its own input (40_codec.md R90; log 4). -/
  codec : Option (Tag × Value)
deriving DecidableEq, Repr

/-- The state: the table of 10_state.md R20 (from `buf` to `protoErr`), the parameters of the instance, and the
model's own fields `inputs`, `out` and `freeCount`. Offsets and counts are naturals (00_scope.md R6; log 10). -/
structure State where
  /-- The parameters of the instance; no step changes them (10_state.md R34; log 2). -/
  params : Params
  buf : Memory
  carry : CarryStore
  /-- 3 bits (10_state.md R22). -/
  carryBytes : Fin 8
  startOffset : Nat
  sampleCount : Nat
  bytesFilled : Nat
  storeTemp : Bool
  phase : Phase
  xferLen : Nat
  wrCount : Nat
  desync : Bool
  xferFail : Bool
  protoErr : Bool
  /-- The model's own: the labels the host and the transport present next, first one first (log 3). -/
  inputs : List PortWord
  /-- The model's own: the per-step output ports as the last step drove them (log 5). -/
  out : Outputs
  /-- The model's own: how many free values have been drawn (log 6). -/
  freeCount : Nat
deriving DecidableEq, Repr

/-- Why the machine stops. Both are raised by the buffer accesses of Machine/Ops.lean, on behalf of `ISSUE`, `GET`,
`BYTE` and `DONE_OK`; both are safe, since the hardware would go on where the model stops, and neither occurs in a
reachable state. -/
inductive Fault where
  /-- A read of an offset that nothing has written since power-up (20_memory.md R60: "treat a read of an absent byte
  as a fault"). Raised by `GET` and `DONE_OK`. Safe. -/
  | unwrittenByte (offset : Nat)
  /-- An access at or beyond `CAPACITY`, an offset that does not exist (20_memory.md R50). Raised by `GET`, `BYTE`,
  `DONE_OK` and `ISSUE`. Safe. -/
  | outsideBuffer (offset : Nat)
deriving DecidableEq, Repr

/-- Why a step gives no meaning. -/
inductive Refusal where
  /-- Raised by `exec` for an operation without a meaning; no operation is left without one. Safe. -/
  | notModelled (mnemonic : String)
  /-- Raised by `step` alone, for a port word that carries no operation: the reset pin presented low (log 12).
  Safe. -/
  | noOperation
deriving DecidableEq, Repr

/-- The state after reset and power-up of an instance with parameters `p` (10_state.md R35). The registers are the
spec's values; the carry store is zero (DESIGN CHOICE, log 7: the spec leaves it unspecified); no offset of the buffer
is listed (R60). -/
def State.resetWith (p : Params) : State where
  params := p
  buf := []
  carry := Vector.replicate 7 0
  carryBytes := 0
  startOffset := 0
  sampleCount := 0
  bytesFilled := 0
  storeTemp := false
  phase := .free
  xferLen := 0
  wrCount := 0
  desync := false
  xferFail := false
  protoErr := false
  inputs := []
  out :=
    { resp := none, respSamples := 0, getTag := Config.freeGetTag 0, getValue := Config.freeGetValue 0,
      xferStart := false, codec := none }
  freeCount := 1

/-- The machine right after reset (10_state.md R35), with the parameters of `Config.resetParams`. -/
def State.reset : State := State.resetWith Config.resetParams

end Sys2Proof.Machine
end

