-- ==== Sys2Proof/Machine/Ops.lean ====
section
/-! DEFINITION. The named operations over memory, the carry store and the output ports. -/

namespace Sys2Proof.Machine

/-- The canonical form of the buffer: offsets strictly rising. An unlisted offset reads as no byte, so no entry can
equal what an unlisted offset reads as. -/
abbrev Memory.wf (m : Memory) : Prop := m.Pairwise (fun c d => c.1 < d.1)

/-- The byte listed at an offset. -/
def Memory.byte? : Memory → Nat → Option Byte
  | [], _ => none
  | (k, b) :: m, a => if a = k then some b else Memory.byte? m a

/-- The memory with one byte written; keeps the canonical form. -/
def Memory.put : Memory → Nat → Byte → Memory
  | [], a, d => [(a, d)]
  | (k, b) :: m, a, d =>
    if a < k then (a, d) :: (k, b) :: m
    else if a = k then (a, d) :: m
    else (k, b) :: Memory.put m a d

/-- The buffer whose first offsets hold the listed bytes from offset `a` on. -/
def Memory.ofBytes (a : Nat) : List Byte → Memory
  | [] => []
  | b :: bs => (a, b) :: Memory.ofBytes (a + 1) bs

/-- `buf[a]` (00_scope.md R14, 20_memory.md R50, R60). -/
def loadByte (p : Params) (m : Memory) (a : Nat) : Except Fault Byte :=
  if a < p.capacity then
    match m.byte? a with
    | some b => .ok b
    | none => .error (.unwrittenByte a)
  else .error (.outsideBuffer a)

/-- `buf[a] <- d` (00_scope.md R14, 20_memory.md R50). -/
def storeByte (p : Params) (m : Memory) (a : Nat) (d : Byte) : Except Fault Memory :=
  if a < p.capacity then .ok (m.put a d) else .error (.outsideBuffer a)

/-- `MemRead(a, n)` (00_scope.md R14). -/
def loadBytes (p : Params) (m : Memory) (a : Nat) : Nat → Except Fault (List Byte)
  | 0 => .ok []
  | n + 1 =>
    match loadByte p m a with
    | .error f => .error f
    | .ok b =>
      match loadBytes p m (a + 1) n with
      | .error f => .error f
      | .ok bs => .ok (b :: bs)

/-- `MemWrite(a, n, v)` (00_scope.md R14). -/
def storeBytes (p : Params) (m : Memory) (a : Nat) : List Byte → Except Fault Memory
  | [] => .ok m
  | d :: ds =>
    match storeByte p m a d with
    | .error f => .error f
    | .ok m' => storeBytes p m' (a + 1) ds

/-- `carry[0 .. n-1]` (10_state.md R23). -/
def CarryStore.first (c : CarryStore) (n : Nat) : List Byte := c.toList.take n

/-- `carry[k], carry[k+1], ... <- bs`; the other registers keep their values (42_realigner.md R128). -/
def CarryStore.loadFrom (c : CarryStore) (k : Nat) : List Byte → CarryStore
  | [] => c
  | b :: bs => CarryStore.loadFrom (c.setIfInBounds k b) (k + 1) bs

/-- `carry[0 .. n-1] <- bs` (42_realigner.md R128). -/
def CarryStore.load (c : CarryStore) (bs : List Byte) : CarryStore := c.loadFrom 0 bs

/-- The outputs of a step that drives neither a sample nor a transfer: `resp_samples` and `xfer_start` are 0, `get_tag`
and `get_value` are free (30_encoding.md R75, 93_implementation_defined.md U3). -/
def State.quiet (s : State) (resp : Option Resp) : State :=
  { s with
    out :=
      { resp := resp, respSamples := 0, getTag := Config.freeGetTag s.freeCount,
        getValue := Config.freeGetValue s.freeCount, xferStart := false, codec := none }
    freeCount := s.freeCount + 1 }

/-- `respond <code>` (00_scope.md R14, 60_exceptions.md R151). -/
def State.respond (s : State) (r : Resp) : State := s.quiet (some r)

/-- `respond OK(resp_samples = n)` with `xfer_start = 1` (42_realigner.md R123, R131). -/
def State.respondIssued (s : State) (n : Nat) : State :=
  { s with
    out :=
      { resp := some .ok, respSamples := n, getTag := Config.freeGetTag s.freeCount,
        getValue := Config.freeGetValue s.freeCount, xferStart := true, codec := none }
    freeCount := s.freeCount + 1 }

/-- `respond OK(get_tag = tag, get_value = value)` (40_codec.md R94). Both ports are driven, so no free value is
drawn. -/
def State.respondSample (s : State) (d : Tag × Value) : State :=
  { s with
    out :=
      { resp := some .ok, respSamples := 0, getTag := d.1, getValue := d.2, xferStart := false,
        codec := none } }

/-- The codec's answer to a record presented at its own input (40_codec.md R90); no command, so no response. -/
def State.answerRecord (s : State) (d : Tag × Value) : State :=
  let q := s.quiet none
  { q with out := { q.out with codec := some d } }

/-- A transport event takes no response (30_encoding.md R78). -/
def State.noResponse (s : State) : State := s.quiet none

/-- A transport event that the phase machine does not accept: `protoErr <- 1` and nothing else (42_realigner.md R130).
This is the one shared reaction to an error: the hardware takes no exceptions and returns from none
(60_exceptions.md R150). -/
def State.protocolError (s : State) : State := { s with protoErr := true }.noResponse

end Sys2Proof.Machine
end

