-- ==== Sys2Proof/Machine/Operands.lean ====
section
/-! DEFINITION. The operand and offset computations: set size, record offset, write offset, sizing. -/

namespace Sys2Proof.Machine

/-- `sampleSetSize`, `S`: 6 for XYZ, 8 for XYZT (00_scope.md R10). -/
def setSize (storeTemp : Bool) : Nat := if storeTemp then 8 else 6

/-- `S` for the current `storeTemp`. -/
def State.setSize (s : State) : Nat := Machine.setSize s.storeTemp

/-- `RecordOffset` (40_codec.md R93). -/
def recordOffset (startOffset setSize index : Nat) (axis : Axis) : Nat :=
  startOffset + setSize * index + 2 * axis.code.toNat

/-- T is an axis only when temperature storage is on (30_encoding.md R79 (d), 40_codec.md R94). -/
def axisPresent (storeTemp : Bool) (axis : Axis) : Bool := storeTemp || decide (axis ≠ .t)

/-- Where byte number `wrCount` of the transfer lands (42_realigner.md R126, 20_memory.md R52). -/
def State.writeOffset (s : State) : Nat := s.carryBytes + s.wrCount

/-- `Sizing` (42_realigner.md R121). -/
def sizing (pendingUnits setSize capacity carryBytes : Nat) : Nat :=
  min (pendingUnits * 2 / setSize) ((capacity - carryBytes) / setSize)

/-- `Sizing` with the operands `ISSUE` gives it (42_realigner.md R123). -/
def State.requestedSamples (s : State) (pendingUnits : Nat) : Nat :=
  sizing pendingUnits s.setSize s.params.capacity s.carryBytes

end Sys2Proof.Machine
end

