-- ==== Sys2Proof/Machine/Codec.lean ====
section
/-! DEFINITION. `sample_codec_extract`: `Decode`, `Encode`, the record rows and `GET` (40_codec.md). -/

namespace Sys2Proof.Machine

/-- The tag of a record's tag byte, bits 7:6 (30_encoding.md R70). -/
def byteTag (b : Byte) : Tag := b.extractLsb' 6 2

/-- `raw14 = (b0[5:0] << 8) | b1` (30_encoding.md R72). -/
def raw14 (b0 b1 : Byte) : Raw14 := b0.extractLsb' 0 6 ++ b1

/-- `sext_16` (00_scope.md R14). -/
def sext16 (v : Raw14) : Value := v.signExtend 16

/-- `Decode(b0, b1)` (40_codec.md R90). -/
def decodeRecord (b0 b1 : Byte) : Tag × Value := (byteTag b0, sext16 (raw14 b0 b1))

/-- `Encode(t, v)` (40_codec.md R91): a reference function, not part of the hardware. R91 does not define it for `v`
outside -8192 to 8191; there it encodes `v` modulo 16384, DESIGN CHOICE (log 16). -/
def encodeRecord (t : Tag) (v : Int) : Byte × Byte :=
  let raw := BitVec.ofInt 14 v
  (t ++ raw.extractLsb' 8 6, raw.extractLsb' 0 8)

/-- `Decode` of the two bytes of a record in buffer order: `LO_FIRST` exchanges their roles (20_memory.md R55,
R56). -/
def decodeInOrder (order : RecOrder) (first second : Byte) : Tag × Value :=
  match order with
  | .hiFirst => decodeRecord first second
  | .loFirst => decodeRecord second first

/-- `Encode` in buffer order (20_memory.md R56). -/
def encodeInOrder (order : RecOrder) (t : Tag) (v : Int) : Byte × Byte :=
  match order with
  | .hiFirst => encodeRecord t v
  | .loFirst => ((encodeRecord t v).2, (encodeRecord t v).1)

/-- The decoded record at an offset: `MemRead(off, 2)`, then `Decode` (40_codec.md R94). -/
def loadRecord (p : Params) (m : Memory) (off : Nat) : Except Fault (Tag × Value) :=
  match loadByte p m off with
  | .error f => .error f
  | .ok first =>
    match loadByte p m (off + 1) with
    | .error f => .error f
    | .ok second => .ok (decodeInOrder p.recOrder first second)

/-- `REC.X`: the codec's answer to an X record (40_codec.md R90, 30_encoding.md R71; log 4). -/
def execRecX (v : Raw14) (s : State) : Host.Outcome State Fault Refusal :=
  .next (s.answerRecord (Axis.x.code, sext16 v))

/-- `REC.Y`: the codec's answer to a Y record (40_codec.md R90, 30_encoding.md R71; log 4). -/
def execRecY (v : Raw14) (s : State) : Host.Outcome State Fault Refusal :=
  .next (s.answerRecord (Axis.y.code, sext16 v))

/-- `REC.Z`: the codec's answer to a Z record (40_codec.md R90, 30_encoding.md R71; log 4). -/
def execRecZ (v : Raw14) (s : State) : Host.Outcome State Fault Refusal :=
  .next (s.answerRecord (Axis.z.code, sext16 v))

/-- `REC.T`: the codec's answer to a T record (40_codec.md R90, 30_encoding.md R71; log 4). With `storeTemp = 0` it is
decoded like any other (R79 (c)). -/
def execRecT (v : Raw14) (s : State) : Host.Outcome State Fault Refusal :=
  .next (s.answerRecord (Axis.t.code, sext16 v))

/-- `GET index, axis` (40_codec.md R94). -/
def execGet (index : Nat) (axis : Axis) (s : State) : Host.Outcome State Fault Refusal :=
  if s.phase ≠ .complete then .next (s.respond .rejPhase)
  else if s.sampleCount ≤ index then .next (s.respond .rejArg)
  else if axisPresent s.storeTemp axis = false then .next (s.respond .rejArg)
  else
    match loadRecord s.params s.buf (recordOffset s.startOffset s.setSize index axis) with
    | .error f => .fault f
    | .ok d => .next (s.respondSample d)

end Sys2Proof.Machine
end

