-- ==== Sys2Proof/Machine/HostCommands.lean ====
section
/-! DEFINITION. The host commands `NOP`, `CFG`, `ISSUE`, `RELEASE` and the reserved opcodes (42_realigner.md
section 3); `GET` stands in Machine/Codec.lean. -/

namespace Sys2Proof.Machine

/-- `NOP` (42_realigner.md R124). -/
def execNop (s : State) : Host.Outcome State Fault Refusal := .next (s.respond .ok)

/-- `CFG st` (42_realigner.md R122). -/
def execCfg (storeTemp : Bool) (s : State) : Host.Outcome State Fault Refusal :=
  if s.phase ≠ .free then .next (s.respond .rejPhase)
  else
    .next ({ s with
      storeTemp := storeTemp
      carryBytes := if storeTemp = s.storeTemp then s.carryBytes else 0 }.respond .ok)

/-- The accepted arm of `ISSUE` for `n` samples: pre-fill step 6 (42_realigner.md R123). -/
def issueTransfer (n : Nat) (s : State) : Host.Outcome State Fault Refusal :=
  match storeBytes s.params s.buf 0 (s.carry.first s.carryBytes) with
  | .error f => .fault f
  | .ok m =>
    .next ({ s with buf := m, xferLen := n * s.setSize, wrCount := 0, phase := .pending }.respondIssued n)

/-- `ISSUE p, busy` (42_realigner.md R123). -/
def execIssue (pendingUnits : Nat) (xportBusy : Bool) (s : State) : Host.Outcome State Fault Refusal :=
  if s.phase ≠ .free then .next (s.respond .rejPhase)
  else if xportBusy then .next (s.respond .rejXportBusy)
  else if s.requestedSamples pendingUnits < 1 then .next (s.respond .notReady)
  else issueTransfer (s.requestedSamples pendingUnits) s

/-- `RELEASE` (42_realigner.md R125). -/
def execRelease (s : State) : Host.Outcome State Fault Refusal :=
  if s.phase ≠ .complete then .next (s.respond .rejPhase)
  else .next ({ s with phase := .free }.respond .ok)

/-- The reserved opcode `101` (30_encoding.md R79 (a), 60_exceptions.md R159). -/
def execReserved101 (s : State) : Host.Outcome State Fault Refusal := .next (s.respond .rejOp)

/-- The reserved opcode `110` (30_encoding.md R79 (a), 60_exceptions.md R159). -/
def execReserved110 (s : State) : Host.Outcome State Fault Refusal := .next (s.respond .rejOp)

/-- The reserved opcode `111` (30_encoding.md R79 (a), 60_exceptions.md R159). -/
def execReserved111 (s : State) : Host.Outcome State Fault Refusal := .next (s.respond .rejOp)

end Sys2Proof.Machine
end

