-- ==== Sys2Proof/Machine/ResetPin.lean ====
section
/-! DEFINITION. The reset pin (70_reset_and_hazards.md R180). -/

namespace Sys2Proof.Machine

/-- `RESET`: every register at its reset value; the buffer and the carry store are not written
(70_reset_and_hazards.md R180). -/
def execReset (s : State) : Host.Outcome State Fault Refusal :=
  .next { s with
    phase := .free
    storeTemp := false
    carryBytes := 0
    startOffset := 0
    sampleCount := 0
    bytesFilled := 0
    xferLen := 0
    wrCount := 0
    desync := false
    xferFail := false
    protoErr := false }.noResponse

end Sys2Proof.Machine
end

