-- ==== Sys2Proof/Machine/Flags.lean ====
section
/-! DEFINITION. The flag computations (10_state.md R31, R32). -/

namespace Sys2Proof.Machine

/-- `desync`: a non-empty fill without an X-tagged record (41_boundary_detector.md R113). -/
def desyncFlag (found : Bool) (bytesFilled : Nat) : Bool := !found && decide (0 < bytesFilled)

/-- The flags a successful completion writes (42_realigner.md R128). -/
def State.flagSuccess (s : State) (found : Bool) (bytesFilled : Nat) : State :=
  { s with desync := desyncFlag found bytesFilled, xferFail := false }

/-- The flags a failed completion writes (42_realigner.md R129). -/
def State.flagFailure (s : State) : State := { s with desync := false, xferFail := true }

end Sys2Proof.Machine
end

