-- ==== Sys2Proof/Machine/Detector.lean ====
section
/-! DEFINITION. `sample_record_boundary_detector`: the X-tag scan (41_boundary_detector.md). -/

namespace Sys2Proof.Machine

/-- The offset of the tag byte of the record at `off` (20_memory.md R55, R56). -/
def tagOffset (order : RecOrder) (off : Nat) : Nat :=
  match order with
  | .hiFirst => off
  | .loFirst => off + 1

/-- The loop of `FindStart` from offset `off` (41_boundary_detector.md R110), with `fuel` records left to look at. Under
`LO_FIRST` a record whose tag byte is not filled is not examined and the scan goes past it (20_memory.md R56; log 8). -/
def scanFrom (p : Params) (m : Memory) (bytesFilled : Nat) : Nat → Nat → Except Fault Nat
  | 0, off => .ok off
  | fuel + 1, off =>
    if off < bytesFilled then
      if tagOffset p.recOrder off < bytesFilled then
        match loadByte p m (tagOffset p.recOrder off) with
        | .error f => .error f
        | .ok b =>
          if byteTag b = Axis.x.code then .ok off else scanFrom p m bytesFilled fuel (off + 2)
      else scanFrom p m bytesFilled fuel (off + 2)
    else .ok off

/-- `FindStart(buf, bytesFilled) = (start, found)` (41_boundary_detector.md R110). The loop runs at most
`ceil(bytesFilled / 2)` times (R111). -/
def findStart (p : Params) (m : Memory) (bytesFilled : Nat) : Except Fault (Nat × Bool) :=
  match scanFrom p m bytesFilled ((bytesFilled + 1) / 2) 0 with
  | .error f => .error f
  | .ok off => .ok (min off bytesFilled, decide (off < bytesFilled))

end Sys2Proof.Machine
end

