-- ==== Sys2Proof/Machine/Realigner.lean ====
section
/-! DEFINITION. `Realign`, post-fill steps 2 to 4 (42_realigner.md R127). -/

namespace Sys2Proof.Machine

/-- The results of `Realign`. -/
structure Realigned where
  start : Nat
  found : Bool
  count : Nat
  carryNext : Nat
deriving DecidableEq, Repr

/-- `Realign(buf, bytesFilled, S)` (42_realigner.md R127). -/
def realign (p : Params) (m : Memory) (bytesFilled setSize : Nat) : Except Fault Realigned :=
  match findStart p m bytesFilled with
  | .error f => .error f
  | .ok (start, found) =>
    let count := (bytesFilled - start) / setSize
    .ok { start := start, found := found, count := count,
          carryNext := bytesFilled - start - count * setSize }

end Sys2Proof.Machine
end

