-- ==== Sys2Proof/Machine/TransportEvents.lean ====
section
/-! DEFINITION. The transport events (42_realigner.md section 4). -/

namespace Sys2Proof.Machine

/-- `tev = 00`, idle: no effect (30_encoding.md R77). -/
def execTeIdle (s : State) : Host.Outcome State Fault Refusal := .next s.noResponse

/-- `BYTE d` (42_realigner.md R126, R130). -/
def execByte (d : Byte) (s : State) : Host.Outcome State Fault Refusal :=
  if s.phase = .pending ∧ s.wrCount < s.xferLen then
    match storeByte s.params s.buf s.writeOffset d with
    | .error f => .fault f
    | .ok m => .next { s with buf := m, wrCount := s.wrCount + 1 }.noResponse
  else .next s.protocolError

/-- Post-fill steps 4 and 5: keep the tail, publish (42_realigner.md R128). The carry is a remainder modulo `S`, so it
fits the 3 bits of `carryBytes` (R127). -/
def publish (bytesFilled : Nat) (r : Realigned) (tail : List Byte) (s : State) : State :=
  { s.flagSuccess r.found bytesFilled with
    carry := s.carry.load tail
    bytesFilled := bytesFilled
    startOffset := r.start
    sampleCount := r.count
    carryBytes := Fin.ofNat 8 r.carryNext
    phase := .complete }

/-- `DONE_OK` (42_realigner.md R128, R130). -/
def execDoneOk (s : State) : Host.Outcome State Fault Refusal :=
  if s.phase ≠ .pending then .next s.protocolError
  else
    match realign s.params s.buf (s.wrCount + s.carryBytes) s.setSize with
    | .error f => .fault f
    | .ok r =>
      match loadBytes s.params s.buf (r.start + r.count * s.setSize) r.carryNext with
      | .error f => .fault f
      | .ok tail => .next (publish (s.wrCount + s.carryBytes) r tail s).noResponse

/-- `DONE_FAIL` (42_realigner.md R129, R130). -/
def execDoneFail (s : State) : Host.Outcome State Fault Refusal :=
  if s.phase ≠ .pending then .next s.protocolError
  else
    .next { s.flagFailure with
      bytesFilled := 0
      startOffset := 0
      sampleCount := 0
      carryBytes := 0
      phase := .complete }.noResponse

end Sys2Proof.Machine
end

