-- ==== Sys2Proof/Machine/Dispatch.lean ====
section
/-! DEFINITION. One arm per operation. -/

namespace Sys2Proof.Machine

def exec (i : Instr) (s : State) : Host.Outcome State Fault Refusal :=
  match i with
  | .recX v => Sys2Proof.Machine.execRecX v s
  | .recY v => Sys2Proof.Machine.execRecY v s
  | .recZ v => Sys2Proof.Machine.execRecZ v s
  | .recT v => Sys2Proof.Machine.execRecT v s
  | .nop => Sys2Proof.Machine.execNop s
  | .cfg storeTemp => Sys2Proof.Machine.execCfg storeTemp s
  | .issue pendingUnits xportBusy => Sys2Proof.Machine.execIssue pendingUnits xportBusy s
  | .get index axis => Sys2Proof.Machine.execGet index axis s
  | .release => Sys2Proof.Machine.execRelease s
  | .reserved101 => Sys2Proof.Machine.execReserved101 s
  | .reserved110 => Sys2Proof.Machine.execReserved110 s
  | .reserved111 => Sys2Proof.Machine.execReserved111 s
  | .teIdle => Sys2Proof.Machine.execTeIdle s
  | .byte inData => Sys2Proof.Machine.execByte inData s
  | .doneOk => Sys2Proof.Machine.execDoneOk s
  | .doneFail => Sys2Proof.Machine.execDoneFail s
  | .reset => Sys2Proof.Machine.execReset s

end Sys2Proof.Machine
end

