-- ==== Sys2Proof/Machine/Ports.lean ====
section
/-! DEFINITION. The output ports that are functions of the state, and the codes of the coded ones
(30_encoding.md R75). -/

namespace Sys2Proof.Machine

/-- The `phase` port's encoding; `11` is never produced (10_state.md R28). -/
def Phase.code : Phase → BitVec 2
  | .free => 0b00
  | .pending => 0b01
  | .complete => 0b10

/-- The `resp` port's encoding; `110` and `111` are never produced (30_encoding.md R78). -/
def Resp.code : Resp → BitVec 3
  | .ok => 0b000
  | .notReady => 0b001
  | .rejPhase => 0b010
  | .rejXportBusy => 0b011
  | .rejArg => 0b100
  | .rejOp => 0b101

/-- The output ports driven at all times (30_encoding.md R75, 10_state.md R26). -/
structure LevelPorts where
  phase : BitVec 2
  complete : BitVec 1
  storeTemp : BitVec 1
  carryBytes : BitVec 3
  startOffset : Nat
  sampleCount : Nat
  bytesFilled : Nat
  desync : BitVec 1
  xferFail : BitVec 1
  protoErr : BitVec 1
  xferLen : Nat
deriving DecidableEq, Repr

/-- The `complete` level, 1 exactly when the phase is `Complete` (60_exceptions.md R161). -/
def State.completePort (s : State) : BitVec 1 := BitVec.ofBool (decide (s.phase = .complete))

/-- What the registers show on their ports (10_state.md R26). -/
def State.levelPorts (s : State) : LevelPorts where
  phase := s.phase.code
  complete := s.completePort
  storeTemp := BitVec.ofBool s.storeTemp
  carryBytes := BitVec.ofNat 3 s.carryBytes
  startOffset := s.startOffset
  sampleCount := s.sampleCount
  bytesFilled := s.bytesFilled
  desync := BitVec.ofBool s.desync
  xferFail := BitVec.ofBool s.xferFail
  protoErr := BitVec.ofBool s.protoErr
  xferLen := s.xferLen

end Sys2Proof.Machine
end

