-- ==== Sys2Proof/Machine/Trace.lean ====
section
/-! DEFINITION. The trace notation's pseudo-operations (30_encoding.md R81) and how labels are presented to the
machine. -/

namespace Sys2Proof.Machine

/-- `BYTES xx yy ...`: one `BYTE` for each byte (30_encoding.md R81). -/
def bytesLabels (bs : List Byte) : List Instr := bs.map Instr.byte

/-- `REC t, v`: `BYTES` of the two bytes of the encoded record (30_encoding.md R81, 40_codec.md R91; a `v` out of range:
log 16). -/
def recLabels (order : RecOrder) (t : Tag) (v : Int) : List Instr :=
  bytesLabels [(encodeInOrder order t v).1, (encodeInOrder order t v).2]

/-- `SET x, y, z` and `SET x, y, z, t`: one `REC` for each value, tagged in order (30_encoding.md R81; a
value out of range: log 16). -/
def setLabels (order : RecOrder) (x y z : Int) (t : Option Int) : List Instr :=
  recLabels order Axis.x.code x ++ recLabels order Axis.y.code y ++ recLabels order Axis.z.code z ++
    match t with
    | none => []
    | some v => recLabels order Axis.t.code v

/-- The state with further port words presented after those that wait (log 3). -/
def State.present (s : State) (ws : List PortWord) : State := { s with inputs := s.inputs ++ ws }

/-- The state with one clock's ports presented (30_encoding.md R80). -/
def State.presentClock (s : State) (c : Clock) : State := s.present c.labels

end Sys2Proof.Machine
end

