-- ==== Sys2Proof/Machine/Step.lean ====
section
/-! DEFINITION. One step: the next label that the host or the transport presents is decoded and executed. -/

namespace Sys2Proof.Machine

/-- One step takes one label (30_encoding.md R80). With no label waiting the command port holds its idle value and the
step is that of `NOP` (42_realigner.md R124; log 3). A port word that carries no operation is refused. -/
def step (s : State) : Host.Outcome State Fault Refusal :=
  match s.inputs with
  | [] => exec .nop s
  | w :: rest =>
    match decode w with
    | .ok i => exec i { s with inputs := rest }
    | .error _ => .refused .noOperation

/-- The state whose next step runs the opcode-table row with bits `w`: its port word is presented before those that
wait (log 9). Bits that are no row of the table become the low reset pin, which the decoder rejects. -/
def State.withFetchWord (s : State) (nbits w : Nat) : State :=
  { s with inputs := (tableWord nbits w).getD (.resetPin 0) :: s.inputs }

end Sys2Proof.Machine
end

