-- ==== Sys2Proof/WellFormed.lean ====
section
/-! DEFINITION. Which operands can be presented on their ports. -/

namespace Sys2Proof

/-- `pending_units` fits its port of `PENDING_W` bits (00_scope.md R7, 30_encoding.md R75). -/
def pendingFits (units : Nat) : Bool := decide (units < 2 ^ Config.pendingWidth)

/-- `get_index` fits its port of `ADDR_W` bits (00_scope.md R6, 30_encoding.md R75). -/
def indexFits (p : Params) (index : Nat) : Bool := decide (index < 2 ^ Config.addrWidth p.capacity)

/-- The operands of `i` can stand on the ports of an instance with parameters `p`. -/
def Instr.wellFormed (p : Params) : Instr → Bool
  | .issue units _ => pendingFits units
  | .get index _ => indexFits p index
  | .recX _ => true
  | .recY _ => true
  | .recZ _ => true
  | .recT _ => true
  | .nop => true
  | .cfg _ => true
  | .release => true
  | .reserved101 => true
  | .reserved110 => true
  | .reserved111 => true
  | .teIdle => true
  | .byte _ => true
  | .doneOk => true
  | .doneFail => true
  | .reset => true

end Sys2Proof
end

