-- ==== Sys2Proof/Safety.lean ====
section
/-! DEFINITION. The terms in which claims speak of the machine: its invariants, quiet answers, runs, sample streams,
and states that differ only in bytes nobody may read. -/

namespace Sys2Proof.Machine

/-- How many bytes at the start of the buffer this cycle has written (20_memory.md R52): none in `Free`, the carry
prefix and the bytes received in `Pending`, `bytesFilled` in `Complete`. -/
def State.validBytes (s : State) : Nat :=
  match s.phase with
  | .free => 0
  | .pending => s.carryBytes + s.wrCount
  | .complete => s.bytesFilled

/-- The invariant of 10_state.md R33, with the ranges of R20 and what 20_memory.md R60 needs of the buffer. -/
structure Invariant (s : State) : Prop where
  /-- The buffer is in canonical form. -/
  bufWf : s.buf.wf
  /-- No offset beyond `CAPACITY` is listed (20_memory.md R50). -/
  bufInside : ∀ c ∈ s.buf, c.1 < s.params.capacity
  /-- R33 (e). -/
  filledFits : s.bytesFilled ≤ s.params.capacity
  /-- R33 (a), with the set size in force at the completion that published. -/
  published : ∃ st, s.startOffset + s.sampleCount * Machine.setSize st ≤ s.bytesFilled
  /-- R33 (a) and (b): in `Complete` the carry is the remainder, with the current set size. -/
  carryEq : s.phase = .complete →
    s.startOffset + s.sampleCount * s.setSize + s.carryBytes = s.bytesFilled
  /-- R33 (c). -/
  carryLt : s.carryBytes < s.setSize
  /-- R33 (d). -/
  pendingXfer : s.phase = .pending →
    0 < s.xferLen ∧ s.setSize ∣ s.xferLen ∧ s.carryBytes + s.xferLen ≤ s.params.capacity
  /-- The range of `wrCount` (R20, R33 (d)). -/
  wrLe : s.wrCount ≤ s.xferLen
  /-- The range of `xferLen` (R20). -/
  xferFits : s.xferLen ≤ s.params.capacity
  /-- R33 (f). -/
  startEven : 2 ∣ s.startOffset ∨ s.startOffset = s.bytesFilled
  /-- R33 (b): after a failed transfer all four are 0. -/
  failZero : s.xferFail = true →
    s.bytesFilled = 0 ∧ s.startOffset = 0 ∧ s.sampleCount = 0 ∧ s.carryBytes = 0
  /-- What a desync leaves (41_boundary_detector.md R113). -/
  desyncZero : s.desync = true →
    0 < s.bytesFilled ∧ s.startOffset = s.bytesFilled ∧ s.sampleCount = 0 ∧ s.carryBytes = 0
  /-- Every byte this cycle may read has been written (20_memory.md R60). -/
  written : ∀ a, a < s.validBytes → (s.buf.byte? a).isSome
  /-- R33 (b), in every phase: the carry is the remainder, or nothing is carried (after a `CFG` that changed
  `storeTemp`, 42_realigner.md R122). -/
  carryTied : s.carryBytes = 0 ∨
    s.startOffset + s.sampleCount * s.setSize + s.carryBytes = s.bytesFilled

/-- While the reader owns the buffer, the published results are the realignment of the buffer's present contents and
the carry store holds the buffer's tail (42_realigner.md R128), unless the transfer failed. -/
def PublishedMatchBuffer (s : State) : Prop :=
  s.phase = .complete → s.xferFail = false →
    ∃ found,
      realign s.params s.buf s.bytesFilled s.setSize
        = .ok { start := s.startOffset, found := found, count := s.sampleCount, carryNext := s.carryBytes } ∧
      s.desync = desyncFlag found s.bytesFilled ∧
      loadBytes s.params s.buf (s.startOffset + s.sampleCount * s.setSize) s.carryBytes
        = .ok (s.carry.first s.carryBytes)

/-- Outputs of a step that drives no sample, no transfer and no codec answer, with response `r`. -/
structure QuietOutputs (o : Outputs) (r : Option Resp) : Prop where
  resp : o.resp = r
  respSamples : o.respSamples = 0
  xferStart : o.xferStart = false
  codec : o.codec = none

/-- `i` executes at `s`, answers `r`, and leaves exactly the state `u` but for the step's own outputs and the counter
of free values. -/
def AnswersWith (i : Instr) (s u : State) (r : Option Resp) : Prop :=
  ∃ o n, exec i s = .next { u with out := o, freeCount := n } ∧ QuietOutputs o r

/-- A host command (30_encoding.md R76). -/
def isHostCommand : Instr → Bool
  | .nop => true
  | .cfg _ => true
  | .issue _ _ => true
  | .get _ _ => true
  | .release => true
  | .reserved101 => true
  | .reserved110 => true
  | .reserved111 => true
  | .recX _ => false
  | .recY _ => false
  | .recZ _ => false
  | .recT _ => false
  | .teIdle => false
  | .byte _ => false
  | .doneOk => false
  | .doneFail => false
  | .reset => false

/-- A transport event that the phase machine does not accept (42_realigner.md R130). -/
def breaksContract (i : Instr) (s : State) : Prop :=
  match i with
  | .byte _ => ¬(s.phase = .pending ∧ s.wrCount < s.xferLen)
  | .doneOk => s.phase ≠ .pending
  | .doneFail => s.phase ≠ .pending
  | .recX _ => False
  | .recY _ => False
  | .recZ _ => False
  | .recT _ => False
  | .nop => False
  | .cfg _ => False
  | .issue _ _ => False
  | .get _ _ => False
  | .release => False
  | .reserved101 => False
  | .reserved110 => False
  | .reserved111 => False
  | .teIdle => False
  | .reset => False

/-- Run labels in order; none when one of them stops. -/
def runAll : List Instr → State → Option State
  | [], s => some s
  | i :: is, s =>
    match exec i s with
    | .next t => runAll is t
    | .fault _ => none
    | .refused _ => none

/-- The set size in force at the last completion of a run of labels from `s` (10_state.md R33 (a)); `size` while there has
been none. -/
def publishedSetSize : List Instr → State → Nat → Nat
  | [], _, size => size
  | i :: is, s, size =>
    match exec i s with
    | .next t =>
      publishedSetSize is t (if (i = .doneOk ∨ i = .doneFail) ∧ s.phase = .pending then s.setSize else size)
    | .fault _ => size
    | .refused _ => size

/-- The bytes of `n` whole Sample Sets, each record carrying the tag of its place (30_encoding.md R73), in the order
`HI_FIRST`. -/
structure SampleStream (storeTemp : Bool) (n : Nat) (bytes : List Byte) : Prop where
  length : bytes.length = n * Machine.setSize storeTemp
  tags : ∀ i axis, i < n → axisPresent storeTemp axis = true →
    (bytes[Machine.setSize storeTemp * i + 2 * axis.code.toNat]?).map byteTag = some axis.code

/-- The value of an axis of a sample of a stream (40_codec.md R90, R93), in the order `HI_FIRST`. -/
def streamSample (storeTemp : Bool) (bytes : List Byte) (index : Nat) (axis : Axis) :
    Option (Tag × Value) :=
  match bytes[recordOffset 0 (Machine.setSize storeTemp) index axis]?,
    bytes[recordOffset 0 (Machine.setSize storeTemp) index axis + 1]? with
  | some b0, some b1 => some (decodeRecord b0 b1)
  | _, _ => none

/-- What a `GET` answers `OK` with, none when it is not answered `OK` (40_codec.md R94). -/
def sampleAnswer (s : State) (index : Nat) (axis : Axis) : Option (Tag × Value) :=
  match exec (.get index axis) s with
  | .next t => if t.out.resp = some .ok then some (t.out.getTag, t.out.getValue) else none
  | .fault _ => none
  | .refused _ => none

/-- The host reads from `s` exactly the samples number `first`, `first + 1`, ... of a stream
(42_realigner.md R132). -/
def ReadsSamples (s : State) (storeTemp : Bool) (bytes : List Byte) (first : Nat) : Prop :=
  ∀ index axis, index < s.sampleCount → axisPresent storeTemp axis = true →
    (sampleAnswer s index axis).isSome ∧
      sampleAnswer s index axis = streamSample storeTemp bytes (first + index) axis

/-- Two states that agree on everything but the bytes no rule lets anyone read: the buffer outside this cycle's bytes
and the carry registers at or beyond `carryBytes` (93_implementation_defined.md U1, U2, U8). -/
structure SameButUnreadBytes (s t : State) : Prop where
  rest : t = { s with buf := t.buf, carry := t.carry }
  buf : ∀ a, a < s.validBytes → t.buf.byte? a = s.buf.byte? a
  carry : t.carry.first s.carryBytes = s.carry.first s.carryBytes

end Sys2Proof.Machine
end

