-- ==== Sys2Proof/Certificates/Slice0/Obligations.lean ====
section
/-! DEFINITION. The statements about the model, for the provers. Each docstring names the rule of spec/ it states. -/

open Sys2Proof Sys2Proof.Machine

/-! Encodings. -/

/-- 30_encoding.md R70, R75 to R77: every operation whose operands fit their ports is read back from its port word, so no
bit of an operand is dropped. -/
def Obligations.DecodeOfEncodeGivesTheOperation : Prop :=
  ∀ (p : Params) (i : Instr), i.wellFormed p = true → decode (encode i) = .ok i

/-- 30_encoding.md R70, R75 to R77: a port word that decodes is, on the ports its opcode uses, the encoding of what it
decodes to; so each word has one meaning. -/
def Obligations.EncodeOfDecodeGivesTheUsedPorts : Prop :=
  ∀ (w : PortWord) (i : Instr), decode w = .ok i → encode i = w.used

/-- 30_encoding.md R70, R71, R76, R77 and 70_reset_and_hazards.md R180: words written out from the spec's encodings. The last
clause is the MODEL'S CHOICE (log 12): the reset pin presented low is no operation and is rejected by name. -/
def Obligations.WrittenOutWordsDecode : Prop :=
  decode (.record 0b0000000000010000#16) = .ok (.recX 16) ∧
  decode (.record 0b0111111110011100#16) = .ok (.recY 0b11111110011100#14) ∧
  decode (.record 0b1011111111111111#16) = .ok (.recZ 0b11111111111111#14) ∧
  decode (.record 0b1100000100101100#16) = .ok (.recT 300) ∧
  decode (.host { cmdOp := 0b010, pendingUnits := 100, xportBusy := 1 }) = .ok (.issue 100 true) ∧
  decode (.host { cmdOp := 0b011, getIndex := 1, getAxis := 0b10 }) = .ok (.get 1 .z) ∧
  decode (.host { cmdOp := 0b110 }) = .ok .reserved110 ∧
  decode (.transport { tev := 0b01, inData := 0x3F }) = .ok (.byte 0x3F) ∧
  decode (.transport { tev := 0b10 }) = .ok .doneOk ∧
  decode (.resetPin 1) = .ok .reset ∧
  decode (.resetPin 0) = .error .resetPinLow

/-- 30_encoding.md R71: the tag is the top two bits of the record word, `00` X, `01` Y, `10` Z, `11` T, and the other
fourteen bits are the value bits, whatever the tag. -/
def Obligations.RecordWordIsTagThenValueBits : Prop :=
  ∀ (w : BitVec 16) (v : Raw14), v.toNat = w.toNat % 16384 →
    (w.toNat / 16384 = 0 → decode (.record w) = .ok (.recX v)) ∧
    (w.toNat / 16384 = 1 → decode (.record w) = .ok (.recY v)) ∧
    (w.toNat / 16384 = 2 → decode (.record w) = .ok (.recZ v)) ∧
    (w.toNat / 16384 = 3 → decode (.record w) = .ok (.recT v))

/-- The opcode table (30_encoding.md R70, R71, R76, R77): a word of a format matches the row of the operation it decodes
to and no other row of that format. -/
def Obligations.EachWordMatchesOneRow : Prop :=
  ∀ (w : PortWord) (i j : Instr), decode w = .ok i → j.row.format = w.format →
    i.row.format = w.format ∧ (w.code &&& j.row.mask = j.row.pattern ↔ j.row = i.row)

/-! Steps and clocks. -/

/-- 30_encoding.md R80 ("The model's step takes one label"): when the port word presented next decodes, the step is the
operation executed with that word taken from the waiting ones. -/
def Obligations.StepRunsTheDecodedOperation : Prop :=
  ∀ (s : State) (w : PortWord) (rest : List PortWord) (i : Instr), s.inputs = w :: rest → decode w = .ok i →
    step s = exec i { s with inputs := rest }

/-- MODEL'S CHOICE (log 3; 42_realigner.md R124, "the idle value of the command port"): with nothing presented the step
is that of `NOP`. -/
def Obligations.StepWithNothingPresentedIsNop : Prop :=
  ∀ s : State, s.inputs = [] → step s = exec .nop s

/-- 30_encoding.md R80: a non-idle event and a non-`NOP` command in one clock are two steps, the event first and the
command after it, from the state the event left. -/
def Obligations.EventThenCommandInOneClock : Prop :=
  ∀ (s : State) (c : Clock) (e k : Instr), s.inputs = [] → c.rst = 0 → c.transport.tev ≠ 0 → c.host.cmdOp ≠ 0 →
    decode (.transport c.transport) = .ok e → decode (.host c.host) = .ok k →
    step (s.presentClock c) = exec e { s with inputs := [.host c.host] } ∧
    ∀ t, step (s.presentClock c) = .next t →
      t.inputs = [.host c.host] ∧ step t = exec k { t with inputs := [] }

/-- 30_encoding.md R80, R77: with `rst` low, a clock with an idle event is the one step of its host command, whatever the
command. DEDUCED (log 14): a clock of a non-idle event and `NOP` is the one step of the event. In both nothing is left
waiting. -/
def Obligations.ClockOfOneLabelIsOneStep : Prop :=
  ∀ (s : State) (c : Clock) (i : Instr), s.inputs = [] → c.rst = 0 →
    (c.transport.tev = 0 → decode (.host c.host) = .ok i → step (s.presentClock c) = exec i s) ∧
    (c.transport.tev ≠ 0 → c.host.cmdOp = 0 → decode (.transport c.transport) = .ok i →
      step (s.presentClock c) = exec i s)

/-- 70_reset_and_hazards.md R180: `rst` wins over a command and an event of the same clock, which are both ignored; the
reset sets every register, in every phase, writes neither the buffer nor the carry store, and drives `xfer_start` and
`complete` low without a response. -/
def Obligations.ResetSetsEveryRegister : Prop :=
  (∀ s : State,
    AnswersWith .reset s
      { s with
        phase := .free, storeTemp := false, carryBytes := 0, startOffset := 0, sampleCount := 0, bytesFilled := 0,
        xferLen := 0, wrCount := 0, desync := false, xferFail := false, protoErr := false } none ∧
    ∀ t, exec .reset s = .next t → t.completePort = 0) ∧
  ∀ (s : State) (c : Clock), c.rst = 1 → s.inputs = [] → step (s.presentClock c) = exec .reset s

/-- 10_state.md R35: the values after reset, for every instance; no byte of the buffer is known. -/
def Obligations.ResetValuesOfTheRegisters : Prop :=
  ∀ p : Params,
    let s := State.resetWith p
    s.phase = .free ∧ s.storeTemp = false ∧ s.carryBytes = 0 ∧ s.startOffset = 0 ∧ s.sampleCount = 0 ∧
    s.bytesFilled = 0 ∧ s.xferLen = 0 ∧ s.wrCount = 0 ∧ s.desync = false ∧ s.xferFail = false ∧
    s.protoErr = false ∧ ∀ a, s.buf.byte? a = none

/-! The codec. -/

/-- 40_codec.md R90: the tag is the top two bits of `b0`, the value the other fourteen bits in two's complement. -/
def Obligations.DecodeIsTagAndSignExtendedValue : Prop :=
  ∀ b0 b1 : Byte,
    (decodeRecord b0 b1).1.toNat = b0.toNat / 64 ∧
    (decodeRecord b0 b1).2.toInt =
      (let raw : Int := ((b0.toNat % 64 * 256 + b1.toNat : Nat) : Int)
       if raw < 8192 then raw else raw - 16384)

/-- 40_codec.md R91: the bytes of the reference encoder, for every value in range. -/
def Obligations.EncodeGivesTagAndLowBits : Prop :=
  ∀ (t : Tag) (v : Int), -8192 ≤ v → v ≤ 8191 →
    ((encodeRecord t v).1.toNat : Int) = t.toNat * 64 + v % 16384 / 256 ∧
    ((encodeRecord t v).2.toNat : Int) = v % 16384 % 256

/-- 40_codec.md R92 (a) to (d): round trip both ways, range, and independence of the state. The fourth clause says (d) of the
record rows, whose answer in `out.codec` is the MODEL'S CHOICE (log 4, log 15). -/
def Obligations.CodecRoundTripsAndRange : Prop :=
  (∀ (t : Tag) (v : Int), -8192 ≤ v → v ≤ 8191 →
    (decodeRecord (encodeRecord t v).1 (encodeRecord t v).2).1 = t ∧
    (decodeRecord (encodeRecord t v).1 (encodeRecord t v).2).2.toInt = v) ∧
  (∀ b0 b1 : Byte, encodeRecord (decodeRecord b0 b1).1 (decodeRecord b0 b1).2.toInt = (b0, b1)) ∧
  (∀ b0 b1 : Byte, -8192 ≤ (decodeRecord b0 b1).2.toInt ∧ (decodeRecord b0 b1).2.toInt ≤ 8191) ∧
  ∀ (s : State) (b0 b1 : Byte) (i : Instr), decode (.record (b0 ++ b1)) = .ok i →
    ∃ t, exec i s = .next t ∧ t.out.codec = some (decodeRecord b0 b1)

/-- MODEL'S CHOICE that a record row is run at the codec's own input (log 4); what it answers is 40_codec.md R90 on the
tag of 30_encoding.md R71, in every state, and nothing else changes. -/
def Obligations.RecordRowsAnswerTagAndValue : Prop :=
  ∀ (s : State) (v : Raw14) (i : Instr) (tag : Tag),
    (i = .recX v ∧ tag = 0b00 ∨ i = .recY v ∧ tag = 0b01 ∨ i = .recZ v ∧ tag = 0b10 ∨ i = .recT v ∧ tag = 0b11) →
    ∃ o n value, exec i s = .next { s with out := o, freeCount := n } ∧
      o.codec = some (tag, value) ∧
      value.toInt = (if v.toNat < 8192 then (v.toNat : Int) else (v.toNat : Int) - 16384) ∧
      o.resp = none ∧ o.respSamples = 0 ∧ o.xferStart = false

/-- 20_memory.md R56 with the reading of log 8: under `LO_FIRST` the two bytes of a record are exchanged in `Decode` and
`Encode`, and the detector reads the second byte of a record that lies whole within the fill and starts at an even offset. -/
def Obligations.LoFirstExchangesTheBytes : Prop :=
  (∀ b0 b1 : Byte, decodeInOrder .loFirst b0 b1 = decodeInOrder .hiFirst b1 b0) ∧
  (∀ (t : Tag) (v : Int), encodeInOrder .loFirst t v = (encodeInOrder .hiFirst t v).swap) ∧
  ∀ (p : Params) (m : Memory) (n start : Nat) (found : Bool), p.recOrder = .loFirst →
    findStart p m n = .ok (start, found) →
    (found = true → 2 ∣ start ∧ start + 1 < n ∧ (m.byte? (start + 1)).map byteTag = some 0) ∧
    (found = false → start = n) ∧
    ∀ off, 2 ∣ off → off < start → off + 1 < n → (m.byte? (off + 1)).map byteTag ≠ some 0

/-- 30_encoding.md R81 with 40_codec.md R91: the pseudo-operation `REC t, v` delivers two bytes, in either record order,
that read back as the record `t`, `v` at the offset where the transfer stood. -/
def Obligations.RecPseudoOperationDeliversTheRecord : Prop :=
  ∀ (s : State) (t : Tag) (v : Int), -8192 ≤ v → v ≤ 8191 → s.phase = .pending → s.wrCount + 2 ≤ s.xferLen →
    s.carryBytes + s.xferLen ≤ s.params.capacity →
    ∃ u value, runAll (recLabels s.params.recOrder t v) s = some u ∧ u.wrCount = s.wrCount + 2 ∧
      u.protoErr = s.protoErr ∧
      loadRecord u.params u.buf (s.carryBytes + s.wrCount) = .ok (t, value) ∧ value.toInt = v

/-! GET. -/

/-- 40_codec.md R94: the three refusals in their order, and the answer: two bytes at the record's offset, decoded; no state
changes in any case. -/
def Obligations.GetAnswersTheDecodedRecord : Prop :=
  ∀ (s : State) (index : Nat) (axis : Axis),
    (s.phase ≠ .complete → AnswersWith (.get index axis) s s (some .rejPhase)) ∧
    (s.phase = .complete → s.sampleCount ≤ index → AnswersWith (.get index axis) s s (some .rejArg)) ∧
    (s.phase = .complete → index < s.sampleCount → axis = .t → s.storeTemp = false →
      AnswersWith (.get index axis) s s (some .rejArg)) ∧
    (s.phase = .complete → index < s.sampleCount → (axis = .t → s.storeTemp = true) →
      ∀ (off : Nat) (b0 b1 : Byte),
        off = s.startOffset + (if s.storeTemp then 8 else 6) * index + 2 * axis.code.toNat →
        off + 1 < s.params.capacity → s.buf.byte? off = some b0 → s.buf.byte? (off + 1) = some b1 →
        ∃ o, exec (.get index axis) s = .next { s with out := o } ∧ o.resp = some .ok ∧ o.respSamples = 0 ∧
          o.xferStart = false ∧ o.codec = none ∧
          (s.params.recOrder = .hiFirst → (o.getTag, o.getValue) = decodeRecord b0 b1) ∧
          (s.params.recOrder = .loFirst → (o.getTag, o.getValue) = decodeRecord b1 b0))

/-- 40_codec.md R93 and 20_memory.md R53: in a state that meets the invariant the record of a legal `GET` lies within the
published sets, below `bytesFilled` and `CAPACITY`, at an even offset. -/
def Obligations.LegalGetStaysInsideTheSets : Prop :=
  ∀ (s : State) (index : Nat) (axis : Axis), Invariant s → s.phase = .complete → index < s.sampleCount →
    axisPresent s.storeTemp axis = true →
    let off := recordOffset s.startOffset s.setSize index axis
    off + 2 ≤ s.startOffset + s.setSize * s.sampleCount ∧
    s.startOffset + s.setSize * s.sampleCount ≤ s.bytesFilled ∧ s.bytesFilled ≤ s.params.capacity ∧ 2 ∣ off

/-- 40_codec.md R94: in a state that meets the invariant a legal `GET` is answered `OK`. -/
def Obligations.LegalGetIsAnswered : Prop :=
  ∀ (s : State) (index : Nat) (axis : Axis), Invariant s → s.phase = .complete → index < s.sampleCount →
    (axis = .t → s.storeTemp = true) →
    ∃ o, exec (.get index axis) s = .next { s with out := o } ∧ o.resp = some .ok

/-- 20_memory.md R54: a `GET` changes no state, so whatever `GET`s came between, in any order, the same `GET` gives the
same answer. -/
def Obligations.GetIsRepeatable : Prop :=
  ∀ (s t : State) (index : Nat) (axis : Axis) (others : List (Nat × Axis)),
    runAll (others.map (fun g => Instr.get g.1 g.2)) s = some t →
    sampleAnswer t index axis = sampleAnswer s index axis ∧
    t = { s with out := t.out, freeCount := t.freeCount }

/-! The detector, the sizing and the realignment. -/

/-- 41_boundary_detector.md R112 (a) to (h), for `HI_FIRST`. -/
def Obligations.FindStartProperties : Prop :=
  ∀ (p : Params) (m : Memory) (n : Nat), p.recOrder = .hiFirst →
    (∀ (start : Nat) (found : Bool), findStart p m n = .ok (start, found) →
      start ≤ n ∧ (found = true ↔ start < n) ∧
      (found = true → 2 ∣ start ∧ (m.byte? start).map byteTag = some 0 ∧
        ∀ off, 2 ∣ off → off < start → ∃ b, m.byte? off = some b ∧ byteTag b ≠ 0) ∧
      (found = false → start = n ∧ ∀ off, 2 ∣ off → off < n → ∃ b, m.byte? off = some b ∧ byteTag b ≠ 0) ∧
      (2 ∣ start ∨ start = n) ∧ (start + 2 ≤ n → 2 ∣ start) ∧
      (0 < n → (m.byte? 0).map byteTag = some 0 → start = 0)) ∧
    findStart p m 0 = .ok (0, false) ∧
    ∀ m' : Memory,
      (∀ off, 2 ∣ off → off < n → (m'.byte? off).map byteTag = (m.byte? off).map byteTag) →
      findStart p m' n = findStart p m n

/-- 41_boundary_detector.md R110 and 20_memory.md R60: the detector gives a result on every fill whose bytes have been
written, and reads only the tag bytes of the records it examines. -/
def Obligations.FindStartCompletesOnAWrittenFill : Prop :=
  ∀ (p : Params) (m : Memory) (n : Nat), n ≤ p.capacity →
    (∀ off, 2 ∣ off → tagOffset p.recOrder off < n → (m.byte? (tagOffset p.recOrder off)).isSome) →
    ∃ start found, findStart p m n = .ok (start, found)

/-- 42_realigner.md R121: the sizing formula, its clamp, and that with a legal `CAPACITY` it is 0 exactly when fewer
pending bytes than one set remain. -/
def Obligations.SizingClampsToWholeSets : Prop :=
  ∀ (s : State) (units : Nat),
    s.requestedSamples units =
      min (units * 2 / (if s.storeTemp then 8 else 6))
        ((s.params.capacity - s.carryBytes) / (if s.storeTemp then 8 else 6)) ∧
    (s.requestedSamples units = 0 ↔ units * 2 < (if s.storeTemp then 8 else 6)) ∧
    s.carryBytes + s.requestedSamples units * (if s.storeTemp then 8 else 6) ≤ s.params.capacity

/-- 42_realigner.md R127: the results of `Realign` and their properties. -/
def Obligations.RealignProperties : Prop :=
  ∀ (p : Params) (m : Memory) (n size start : Nat) (found : Bool), size = 6 ∨ size = 8 →
    findStart p m n = .ok (start, found) →
    ∃ count carryNext,
      realign p m n size = .ok { start := start, found := found, count := count, carryNext := carryNext } ∧
      count = (n - start) / size ∧ carryNext = (n - start) % size ∧ start + count * size + carryNext = n ∧
      carryNext ≤ size - 1 ∧ (found = false → start = n ∧ count = 0 ∧ carryNext = 0)

/-! Host commands. -/

/-- 42_realigner.md R124: `NOP` answers `OK` and changes no state, in any phase. -/
def Obligations.NopAnswersOk : Prop :=
  ∀ s : State, AnswersWith .nop s s (some .ok)

/-- 42_realigner.md R122: `CFG` is refused outside `Free`; in `Free` it writes `storeTemp` and, when that changes the
value, discards the carry; nothing else changes. -/
def Obligations.CfgWritesStoreTempInFree : Prop :=
  ∀ (s : State) (st : Bool),
    (s.phase ≠ .free → AnswersWith (.cfg st) s s (some .rejPhase)) ∧
    (s.phase = .free →
      AnswersWith (.cfg st) s
        { s with storeTemp := st, carryBytes := if st = s.storeTemp then s.carryBytes else 0 } (some .ok))

/-- 42_realigner.md R123: the refusals of `ISSUE` in their order, each without a change of state, and the accepted
`ISSUE`: the carry prefix is written to offsets `0 .. carryBytes-1` and no other byte, the transfer is sized and announced,
the phase is `Pending`. -/
def Obligations.IssueSizesAndStartsTheTransfer : Prop :=
  ∀ (s : State) (units : Nat) (busy : Bool),
    let size := if s.storeTemp then 8 else 6
    let n := min (units * 2 / size) ((s.params.capacity - s.carryBytes) / size)
    (s.phase ≠ .free → AnswersWith (.issue units busy) s s (some .rejPhase)) ∧
    (s.phase = .free → busy = true → AnswersWith (.issue units busy) s s (some .rejXportBusy)) ∧
    (s.phase = .free → busy = false → n < 1 → AnswersWith (.issue units busy) s s (some .notReady)) ∧
    (s.phase = .free → busy = false → 1 ≤ n →
      ∃ m o k,
        exec (.issue units busy) s = .next
          { s with buf := m, xferLen := n * size, wrCount := 0, phase := .pending, out := o, freeCount := k } ∧
        o.resp = some .ok ∧ o.respSamples = n ∧ o.xferStart = true ∧ o.codec = none ∧
        (∀ a, a < (s.carryBytes : Nat) → m.byte? a = s.carry[a]?) ∧
        (∀ a, (s.carryBytes : Nat) ≤ a → m.byte? a = s.buf.byte? a) ∧
        s.carryBytes + n * size ≤ s.params.capacity)

/-- 42_realigner.md R125: `RELEASE` is refused outside `Complete` and otherwise only frees the buffer. -/
def Obligations.ReleaseFreesTheBuffer : Prop :=
  ∀ s : State,
    (s.phase ≠ .complete → AnswersWith .release s s (some .rejPhase)) ∧
    (s.phase = .complete → AnswersWith .release s { s with phase := .free } (some .ok))

/-- 60_exceptions.md R159: the reserved opcodes answer `REJ_OP` and have no effect, in every phase. -/
def Obligations.ReservedOpcodesAnswerRejOp : Prop :=
  ∀ s : State,
    AnswersWith .reserved101 s s (some .rejOp) ∧ AnswersWith .reserved110 s s (some .rejOp) ∧
    AnswersWith .reserved111 s s (some .rejOp)

/-! Transport events. -/

/-- 30_encoding.md R77: the idle event has no effect and no response. -/
def Obligations.IdleEventHasNoEffect : Prop :=
  ∀ s : State, AnswersWith .teIdle s s none

/-- 42_realigner.md R126: an accepted `BYTE` stores its byte at `carryBytes + wrCount`, counts it and changes nothing else;
a refused one sets `protoErr` and changes nothing else. (That the offset lies in the buffer is 10_state.md R33; see
`InvariantKeptByEveryStep`.) -/
def Obligations.ByteIsStoredAtTheWriteOffset : Prop :=
  ∀ (s : State) (d : Byte),
    (s.phase = .pending → s.wrCount < s.xferLen → s.carryBytes + s.wrCount < s.params.capacity →
      ∃ m o k,
        exec (.byte d) s = .next { s with buf := m, wrCount := s.wrCount + 1, out := o, freeCount := k } ∧
        QuietOutputs o none ∧ m.byte? (s.carryBytes + s.wrCount) = some d ∧
        ∀ a, a ≠ s.carryBytes + s.wrCount → m.byte? a = s.buf.byte? a) ∧
    (¬(s.phase = .pending ∧ s.wrCount < s.xferLen) → AnswersWith (.byte d) s { s with protoErr := true } none)

/-- 42_realigner.md R128: an accepted `DONE_OK` publishes the realignment of the fill, keeps its tail in the carry store,
writes the two flags and changes nothing else: no byte of the buffer, and no carry register beyond the new carry. Outside
`Pending` it only sets `protoErr`. (That the fill lies in the buffer and has been written is 10_state.md R33 and
20_memory.md R60; see `DoneOkCompletesInPending`.) -/
def Obligations.DoneOkPublishesTheRealignment : Prop :=
  ∀ s : State,
    (s.phase ≠ .pending → AnswersWith .doneOk s { s with protoErr := true } none) ∧
    (s.phase = .pending → ∀ (start : Nat) (found : Bool),
      let size := if s.storeTemp then 8 else 6
      let n := s.wrCount + s.carryBytes
      let count := (n - start) / size
      n ≤ s.params.capacity → findStart s.params s.buf n = .ok (start, found) →
      (∀ a, start + count * size ≤ a → a < n → (s.buf.byte? a).isSome) →
      ∃ (store : CarryStore) (cn : Fin 8) (o : Outputs) (k : Nat),
        exec .doneOk s = .next
          { s with
            carry := store, bytesFilled := n, startOffset := start, sampleCount := count, carryBytes := cn,
            desync := decide (found = false ∧ 0 < n), xferFail := false, phase := .complete, out := o, freeCount := k } ∧
        QuietOutputs o none ∧ (cn : Nat) = n - start - count * size ∧
        (∀ j, j < (cn : Nat) → store[j]? = s.buf.byte? (start + count * size + j)) ∧
        ∀ j, (cn : Nat) ≤ j → store[j]? = s.carry[j]?)

/-- 42_realigner.md R128 in a state that meets the invariant: `DONE_OK` in `Pending` always completes. -/
def Obligations.DoneOkCompletesInPending : Prop :=
  ∀ s : State, Invariant s → s.phase = .pending →
    ∃ t, exec .doneOk s = .next t ∧ t.phase = .complete ∧ t.bytesFilled = s.carryBytes + s.wrCount ∧
      t.startOffset + t.sampleCount * s.setSize + t.carryBytes = t.bytesFilled ∧
      (t.carryBytes : Nat) < s.setSize ∧ t.buf = s.buf ∧ t.xferFail = false

/-- 42_realigner.md R129: `DONE_FAIL` in `Pending` publishes a failure with every count 0 and keeps everything else;
outside `Pending` it only sets `protoErr`. -/
def Obligations.DoneFailPublishesTheFailure : Prop :=
  ∀ s : State,
    (s.phase = .pending →
      AnswersWith .doneFail s
        { s with
          bytesFilled := 0, startOffset := 0, sampleCount := 0, carryBytes := 0, desync := false, xferFail := true,
          phase := .complete } none) ∧
    (s.phase ≠ .pending → AnswersWith .doneFail s { s with protoErr := true } none)

/-- 42_realigner.md R130: an event that the phase machine does not accept sets `protoErr` and changes nothing else. -/
def Obligations.RefusedEventOnlySetsProtoErr : Prop :=
  ∀ s : State,
    (s.phase ≠ .pending → AnswersWith .doneOk s { s with protoErr := true } none) ∧
    (s.phase ≠ .pending → AnswersWith .doneFail s { s with protoErr := true } none) ∧
    ∀ d : Byte,
      (s.phase ≠ .pending → AnswersWith (.byte d) s { s with protoErr := true } none) ∧
      (s.wrCount = s.xferLen → AnswersWith (.byte d) s { s with protoErr := true } none)

/-! Rules of the whole machine. -/

/-- 42_realigner.md R120: the table of the phase machine, operation by operation: the next phase and the response (none for
events), and what an event outside `Pending` leaves. -/
def Obligations.PhaseMachineTable : Prop :=
  ∀ (i : Instr) (s t : State), exec i s = .next t →
    (i = .nop → t.phase = s.phase ∧ t.out.resp = some .ok) ∧
    (∀ st, i = .cfg st →
      t.phase = s.phase ∧ t.out.resp = some (if s.phase = .free then Resp.ok else Resp.rejPhase)) ∧
    (∀ units busy, i = .issue units busy →
      (s.phase = .free ∧ t.phase = .pending ∧ t.out.resp = some .ok) ∨
      (s.phase = .free ∧ t.phase = .free ∧ (t.out.resp = some .rejXportBusy ∨ t.out.resp = some .notReady)) ∨
      (s.phase ≠ .free ∧ t.phase = s.phase ∧ t.out.resp = some .rejPhase)) ∧
    (∀ index axis, i = .get index axis →
      t.phase = s.phase ∧
      (s.phase = .complete → t.out.resp = some .ok ∨ t.out.resp = some .rejArg) ∧
      (s.phase ≠ .complete → t.out.resp = some .rejPhase)) ∧
    (i = .release →
      (s.phase = .complete → t.phase = .free ∧ t.out.resp = some .ok) ∧
      (s.phase ≠ .complete → t.phase = s.phase ∧ t.out.resp = some .rejPhase)) ∧
    ((i = .reserved101 ∨ i = .reserved110 ∨ i = .reserved111) → t.phase = s.phase ∧ t.out.resp = some .rejOp) ∧
    (∀ d, i = .byte d →
      t.phase = s.phase ∧ t.out.resp = none ∧
      (s.phase = .pending → s.wrCount < s.xferLen → t.protoErr = s.protoErr ∧ t.wrCount = s.wrCount + 1) ∧
      (s.phase ≠ .pending ∨ s.xferLen ≤ s.wrCount → t.protoErr = true)) ∧
    ((i = .doneOk ∨ i = .doneFail) →
      t.out.resp = none ∧
      (s.phase = .pending → t.phase = .complete ∧ t.protoErr = s.protoErr) ∧
      (s.phase ≠ .pending → t.phase = s.phase ∧ t.protoErr = true))

/-- 10_state.md R28: the phase changes only by an accepted `ISSUE` (`Free` to `Pending`), a completion (`Pending` to
`Complete`), an accepted `RELEASE` (`Complete` to `Free`), or reset. -/
def Obligations.PhaseChangesOnlyAlongTheCycle : Prop :=
  ∀ (i : Instr) (s t : State), exec i s = .next t → t.phase ≠ s.phase →
    (∃ units, i = .issue units false ∧ s.phase = .free ∧ t.phase = .pending ∧ t.out.resp = some .ok) ∨
    ((i = .doneOk ∨ i = .doneFail) ∧ s.phase = .pending ∧ t.phase = .complete) ∨
    (i = .release ∧ s.phase = .complete ∧ t.phase = .free ∧ t.out.resp = some .ok) ∨
    (i = .reset ∧ t.phase = .free)

/-- 60_exceptions.md R151 with 30_encoding.md R78: each host command has exactly one response and no transport event has any;
`resp_samples` is non-zero only on an accepted `ISSUE`. MODEL'S CHOICE (log 4, log 5): the record rows and `RESET`, whose
`resp` 93_implementation_defined.md U4 leaves open, have no response either. -/
def Obligations.ExactlyHostCommandsAreAnswered : Prop :=
  ∀ (i : Instr) (s t : State), exec i s = .next t →
    (t.out.resp.isSome = isHostCommand i) ∧
    (t.out.respSamples ≠ 0 → ∃ units, i = .issue units false ∧ t.out.resp = some .ok)

/-- 60_exceptions.md R152, R156, R157, R159, and the cause and effect of R158: the cause of every refusal, in both
directions, and that a refused command leaves every piece of state as it was. -/
def Obligations.EveryRefusalHasItsCauseAndNoEffect : Prop :=
  ∀ (i : Instr) (s t : State), exec i s = .next t →
    (t.out.resp = some .notReady ↔
      ∃ units, i = .issue units false ∧ s.phase = .free ∧ units * 2 < s.setSize) ∧
    (t.out.resp = some .rejPhase ↔
      ((∃ st, i = .cfg st) ∨ ∃ units busy, i = .issue units busy) ∧ s.phase ≠ .free ∨
      ((∃ index axis, i = .get index axis) ∨ i = .release) ∧ s.phase ≠ .complete) ∧
    (t.out.resp = some .rejXportBusy ↔ ∃ units, i = .issue units true ∧ s.phase = .free) ∧
    (t.out.resp = some .rejArg ↔
      ∃ index axis, i = .get index axis ∧ s.phase = .complete ∧
        (s.sampleCount ≤ index ∨ axis = .t ∧ s.storeTemp = false)) ∧
    (t.out.resp = some .rejOp ↔ i = .reserved101 ∨ i = .reserved110 ∨ i = .reserved111) ∧
    (t.out.resp ≠ none → t.out.resp ≠ some .ok → t = { s with out := t.out, freeCount := t.freeCount })

/-- 10_state.md R28 and 30_encoding.md R78, R79 (b): the codes of `phase` and `resp` are the ones listed, so no two phases
or responses share one and the reserved codes are never produced. 10_state.md R26 and 30_encoding.md R75: each level port
shows the register of its name, and `complete` shows whether the phase is `Complete`. -/
def Obligations.PhaseAndResponseCodes : Prop :=
  (Phase.code .free = 0b00 ∧ Phase.code .pending = 0b01 ∧ Phase.code .complete = 0b10) ∧
  (Resp.code .ok = 0b000 ∧ Resp.code .notReady = 0b001 ∧ Resp.code .rejPhase = 0b010 ∧
    Resp.code .rejXportBusy = 0b011 ∧ Resp.code .rejArg = 0b100 ∧ Resp.code .rejOp = 0b101) ∧
  (∀ s : State, s.levelPorts.phase ≠ 0b11) ∧
  (∀ r : Resp, r.code ≠ 0b110 ∧ r.code ≠ 0b111) ∧
  ∀ s : State,
    s.levelPorts.phase = s.phase.code ∧ (s.levelPorts.complete = 1 ↔ s.phase = .complete) ∧
    (s.levelPorts.storeTemp = 1 ↔ s.storeTemp = true) ∧ s.levelPorts.carryBytes.toNat = s.carryBytes ∧
    s.levelPorts.startOffset = s.startOffset ∧ s.levelPorts.sampleCount = s.sampleCount ∧
    s.levelPorts.bytesFilled = s.bytesFilled ∧ (s.levelPorts.desync = 1 ↔ s.desync = true) ∧
    (s.levelPorts.xferFail = 1 ↔ s.xferFail = true) ∧ (s.levelPorts.protoErr = 1 ↔ s.protoErr = true) ∧
    s.levelPorts.xferLen = s.xferLen

/-- 60_exceptions.md R161 with 70_reset_and_hazards.md R180: `complete` is 1 exactly in `Complete`; it rises only in the
step of a completion and falls only in the step of an accepted `RELEASE` or of a reset. -/
def Obligations.CompleteLevelRisesAndFalls : Prop :=
  (∀ s : State, s.completePort = 1 ↔ s.phase = .complete) ∧
  ∀ (i : Instr) (s t : State), exec i s = .next t →
    (s.completePort = 0 → t.completePort = 1 → (i = .doneOk ∨ i = .doneFail) ∧ s.phase = .pending) ∧
    (s.completePort = 1 → t.completePort = 0 → i = .release ∧ t.out.resp = some .ok ∨ i = .reset)

/-- 42_realigner.md R131 and 60_exceptions.md R163 (what the transport may rely on): `xfer_start` is 1 in exactly the steps
of an `ISSUE` answered `OK`; the core then asks for at least one whole set, for whole sets only, never while `Pending`, and
never for more than fits beside the carry. -/
def Obligations.TransferAnnouncedOnlyByAcceptedIssue : Prop :=
  ∀ (i : Instr) (s t : State), exec i s = .next t →
    (t.out.xferStart = true ↔ (∃ units busy, i = .issue units busy) ∧ t.out.resp = some .ok) ∧
    (t.out.xferStart = true →
      s.phase ≠ .pending ∧ t.phase = .pending ∧ t.xferLen = t.out.respSamples * s.setSize ∧ 0 < t.xferLen ∧
      t.xferLen ≤ s.params.capacity - s.carryBytes)

/-- 20_memory.md R51, R57: a byte of the buffer changes only by the carry prefix of an accepted `ISSUE` in `Free` or by an
accepted `BYTE` in `Pending`, at that event's own offset. -/
def Obligations.BufferWrittenOnlyByItsOwner : Prop :=
  ∀ (i : Instr) (s t : State) (a : Nat), exec i s = .next t → t.buf.byte? a ≠ s.buf.byte? a →
    (∃ units, i = .issue units false ∧ s.phase = .free ∧ a < (s.carryBytes : Nat) ∧ t.buf.byte? a = s.carry[a]?) ∨
    (∃ d, i = .byte d ∧ s.phase = .pending ∧ s.wrCount < s.xferLen ∧ a = s.carryBytes + s.wrCount ∧
      t.buf.byte? a = some d)

/-- 10_state.md R23, R22: the carry store changes only at an accepted `DONE_OK`, and the carry count only at a completion, at
a `CFG` that changes `storeTemp`, or at reset. -/
def Obligations.CarryChangesOnlyAsListed : Prop :=
  ∀ (i : Instr) (s t : State), exec i s = .next t →
    (t.carry ≠ s.carry → i = .doneOk ∧ s.phase = .pending) ∧
    (t.carryBytes ≠ s.carryBytes →
      ((i = .doneOk ∨ i = .doneFail) ∧ s.phase = .pending) ∨
      (i = .cfg (!s.storeTemp) ∧ s.phase = .free ∧ t.carryBytes = 0) ∨
      (i = .reset ∧ t.carryBytes = 0))

/-- 10_state.md R21, R24, R25, R31: the published results and the two completion flags change only at a completion in
`Pending`, or at reset. -/
def Obligations.ResultsChangeOnlyAtCompletion : Prop :=
  ∀ (i : Instr) (s t : State), exec i s = .next t →
    ¬((i = .doneOk ∨ i = .doneFail) ∧ s.phase = .pending) → i ≠ .reset →
    t.bytesFilled = s.bytesFilled ∧ t.startOffset = s.startOffset ∧ t.sampleCount = s.sampleCount ∧
    t.desync = s.desync ∧ t.xferFail = s.xferFail

/-- 10_state.md R32: `protoErr` is set when the transport breaks its contract, stays set, and is cleared only by reset; the
offending event changes nothing else. -/
def Obligations.ProtoErrIsSticky : Prop :=
  ∀ (i : Instr) (s t : State), exec i s = .next t →
    (t.protoErr = true ↔ i ≠ .reset ∧ (s.protoErr = true ∨ breaksContract i s)) ∧
    (breaksContract i s → t = { s with protoErr := true, out := t.out, freeCount := t.freeCount })

/-- 10_state.md R27, R34: `storeTemp` changes only by `CFG` in `Free` or by reset, and no step changes a parameter of the
instance or consumes an input of its own accord. -/
def Obligations.ConfigurationIsStable : Prop :=
  ∀ (i : Instr) (s t : State), exec i s = .next t →
    (t.storeTemp ≠ s.storeTemp → i = .cfg t.storeTemp ∧ s.phase = .free ∨ i = .reset) ∧
    t.params = s.params ∧ t.inputs = s.inputs

/-- 60_exceptions.md R162 (last part), 41_boundary_detector.md R113: after a completion `desync` excludes a carry, samples and
`xferFail`. -/
def Obligations.CompletionFlagsExclude : Prop :=
  ∀ (i : Instr) (s t : State), i = .doneOk ∨ i = .doneFail → s.phase = .pending → exec i s = .next t →
    (t.desync = true → t.xferFail = false ∧ t.carryBytes = 0 ∧ t.sampleCount = 0 ∧ t.startOffset = t.bytesFilled ∧
      0 < t.bytesFilled) ∧
    (t.xferFail = true ↔ i = .doneFail)

/-! Invariants. -/

/-- 10_state.md R33 (a) to (f), with the ranges of R20 and 20_memory.md R60: every step keeps the invariant. -/
def Obligations.InvariantKeptByEveryStep : Prop :=
  ∀ s t : State, Invariant s → step s = .next t → Invariant t

/-- 10_state.md R33, R35 (70_reset_and_hazards.md R182, "every invariant of R33 holds in the reset state"): the invariant
holds at reset, for every instance, and at `State.reset`. -/
def Obligations.InvariantHoldsAtReset : Prop :=
  (∀ p : Params, Invariant (State.resetWith p)) ∧ Invariant State.reset

/-- 10_state.md R33 (a) to (f): in every state that any sequence of labels reaches from the reset of any instance, the
published results, counted with the set size in force at the completion that published them (any size before the first),
lie within the fill and the fill within `CAPACITY` (a, e), the carry is the remainder while the results are current and else
is still that remainder or nothing (b), it is below `S` (c), a transfer in flight fits beside it (d), and `startOffset` is
even or `bytesFilled` (f). R33 marks (c), (d) and (f) as its own inferences. -/
def Obligations.ReachableStatesMeetTheInvariants : Prop :=
  ∀ (p : Params) (labels : List Instr) (s : State), runAll labels (State.resetWith p) = some s →
    (∀ size, s.startOffset + s.sampleCount * publishedSetSize labels (State.resetWith p) size ≤ s.bytesFilled ∧
      (s.phase = .complete → publishedSetSize labels (State.resetWith p) size = s.setSize)) ∧
    s.bytesFilled ≤ s.params.capacity ∧
    (s.phase = .complete → (s.carryBytes : Nat) = s.bytesFilled - s.startOffset - s.sampleCount * s.setSize) ∧
    (s.carryBytes = 0 ∨ (s.carryBytes : Nat) = s.bytesFilled - s.startOffset - s.sampleCount * s.setSize) ∧
    (s.xferFail = true → s.carryBytes = 0 ∧ s.bytesFilled = 0 ∧ s.startOffset = 0 ∧ s.sampleCount = 0) ∧
    (s.carryBytes : Nat) < s.setSize ∧
    (s.phase = .pending → s.wrCount ≤ s.xferLen ∧ 0 < s.xferLen ∧ s.setSize ∣ s.xferLen ∧
      s.carryBytes + s.xferLen ≤ s.params.capacity) ∧
    (2 ∣ s.startOffset ∨ s.startOffset = s.bytesFilled)

/-- 42_realigner.md R128 and 20_memory.md R61: every step keeps the published results equal to the realignment of the buffer's
present contents, with the tail in the carry store, for as long as the reader owns the buffer. -/
def Obligations.PublishedResultsStayTrueOfTheBuffer : Prop :=
  (∀ s t : State, PublishedMatchBuffer s → step s = .next t → PublishedMatchBuffer t) ∧
  ∀ p : Params, PublishedMatchBuffer (State.resetWith p)

/-- 20_memory.md R60 ("the fault is unreachable") and 60_exceptions.md R150: from a state that meets the invariant, every
label is executed to a next state; in particular no label reads a byte that nothing has written or touches an offset
outside the buffer. -/
def Obligations.NoLabelEverFaults : Prop :=
  ∀ (i : Instr) (s : State), Invariant s → ∃ t, exec i s = .next t ∧ Invariant t

/-- 00_scope.md R6: `ADDR_W` is `ceil(log2(CAPACITY + 1))`, and every offset and count register fits it in every state that
meets the invariant. -/
def Obligations.RegistersFitTheirWidths : Prop :=
  (∀ p : Params, Config.addrWidth p.capacity = Nat.clog 2 (p.capacity + 1) ∧
    p.capacity < 2 ^ Config.addrWidth p.capacity) ∧
  ∀ s : State, Invariant s →
    s.startOffset ≤ s.params.capacity ∧ s.bytesFilled ≤ s.params.capacity ∧ s.xferLen ≤ s.params.capacity ∧
    s.wrCount ≤ s.params.capacity ∧ s.sampleCount * 6 ≤ s.params.capacity

/-! Properties across cycles. -/

/-- 42_realigner.md R132 (c): however many units are said to be pending, the fill that follows an accepted `ISSUE` is never
larger than `CAPACITY`. -/
def Obligations.FillNeverExceedsCapacity : Prop :=
  ∀ (s u t : State) (units : Nat) (events : List Instr), s.phase = .free → exec (.issue units false) s = .next u →
    u.out.resp = some .ok → (∀ e ∈ events, ∃ d, e = .byte d) → runAll (events ++ [.doneOk]) u = some t →
    t.bytesFilled ≤ s.params.capacity ∧ t.bytesFilled ≤ s.carryBytes + u.xferLen

/-- 41_boundary_detector.md R113 and 60_exceptions.md R154: a non-empty fill without an X record is reported by `desync`, gives
no sample and no carry, is not fatal, and the next transfer is written from offset 0. -/
def Obligations.DesyncIsReportedAndRecovers : Prop :=
  ∀ s : State, Invariant s → s.phase = .pending → s.params.recOrder = .hiFirst → 0 < s.carryBytes + s.wrCount →
    (∀ off, 2 ∣ off → off < s.carryBytes + s.wrCount → (s.buf.byte? off).map byteTag ≠ some 0) →
    ∃ t u, exec .doneOk s = .next t ∧ t.phase = .complete ∧ t.desync = true ∧ t.sampleCount = 0 ∧
      t.carryBytes = 0 ∧ t.startOffset = t.bytesFilled ∧ exec .release t = .next u ∧
      ∀ (units : Nat) (d : Byte), s.setSize ≤ units * 2 →
        ∃ v w, exec (.issue units false) u = .next v ∧ v.out.resp = some .ok ∧ exec (.byte d) v = .next w ∧
          w.wrCount = 1 ∧ w.buf.byte? 0 = some d

/-- 42_realigner.md R133: a transfer that delivers every byte asked for, in a fill that begins with an X record, gives all its
sets, starts at offset 0 and leaves the carry as it was. -/
def Obligations.SteadyStateKeepsTheCarry : Prop :=
  ∀ (s : State) (n : Nat), Invariant s → s.phase = .pending → s.params.recOrder = .hiFirst → s.wrCount = s.xferLen →
    s.xferLen = n * s.setSize → (s.buf.byte? 0).map byteTag = some 0 →
    ∃ t, exec .doneOk s = .next t ∧ t.bytesFilled = s.carryBytes + n * s.setSize ∧ t.startOffset = 0 ∧
      t.sampleCount = n ∧ t.carryBytes = s.carryBytes

/-- 42_realigner.md R132 (b), with the conditions R132 names: a stream of whole Sample Sets that begins at a set and is cut at
any byte into two transfers is read by the host as exactly its samples, in order, none twice and none lost. -/
def Obligations.SplitStreamIsReadWholeAndOnce : Prop :=
  ∀ (s : State) (bytes : List Byte) (sets cut units1 units2 : Nat),
    Invariant s → s.phase = .free → s.carryBytes = 0 → s.params.recOrder = .hiFirst →
    SampleStream s.storeTemp sets bytes → cut ≤ bytes.length →
    1 ≤ s.requestedSamples units1 → cut ≤ s.requestedSamples units1 * s.setSize →
    1 ≤ sizing units2 s.setSize s.params.capacity (cut % s.setSize) →
    bytes.length - cut ≤ sizing units2 s.setSize s.params.capacity (cut % s.setSize) * s.setSize →
    ∃ t1 t2,
      runAll (.issue units1 false :: bytesLabels (bytes.take cut) ++ [.doneOk]) s = some t1 ∧
      runAll (.release :: .issue units2 false :: bytesLabels (bytes.drop cut) ++ [.doneOk]) t1 = some t2 ∧
      t1.sampleCount + t2.sampleCount = sets ∧ t1.desync = false ∧ t2.desync = false ∧ t2.carryBytes = 0 ∧
      ReadsSamples t1 s.storeTemp bytes 0 ∧ ReadsSamples t2 s.storeTemp bytes t1.sampleCount

/-- 93_implementation_defined.md U1, U2, U8 and 20_memory.md R60: the bytes nobody has written in this cycle and the carry
registers beyond the carry count can never be told from the outside: two states that differ only in them step to two states
that differ only in them, with the same outputs. -/
def Obligations.UnreadBytesAreNeverSeen : Prop :=
  ∀ s1 s2 t1 : State, Invariant s1 → Invariant s2 → SameButUnreadBytes s1 s2 → step s1 = .next t1 →
    ∃ t2, step s2 = .next t2 ∧ SameButUnreadBytes t1 t2
end

