-- ==== Sys2Proof/Laws/Memory.lean ====
section
/-! SUPPORT. The laws of the buffer: reads after writes, the canonical form, and one lemma for each access that says
when it succeeds and what it gives. -/

namespace Sys2Proof.Machine

/-! Reads after writes. -/

@[simp] theorem Memory.byte?_nil (a : Nat) : Memory.byte? [] a = none := rfl

theorem Memory.byte?_put (m : Memory) (a d k) :
    (m.put a d).byte? k = if k = a then some d else m.byte? k := by
  induction m with
  | nil => simp [Memory.put, Memory.byte?]
  | cons c m ih =>
    obtain ⟨j, b⟩ := c
    simp only [Memory.put]
    split
    · simp [Memory.byte?]
    · split
      · subst_vars
        simp only [Memory.byte?]
        split <;> rfl
      · simp only [Memory.byte?, ih]
        split <;> split <;> simp_all

theorem Memory.byte?_put_same (m : Memory) (a d) : (m.put a d).byte? a = some d := by
  simp [Memory.byte?_put]

theorem Memory.byte?_put_other (m : Memory) {a k} (d) (h : k ≠ a) : (m.put a d).byte? k = m.byte? k := by
  simp [Memory.byte?_put, h]

/-! The canonical form. -/

theorem Memory.mem_put {m : Memory} {a d c} (h : c ∈ m.put a d) : c = (a, d) ∨ c ∈ m := by
  induction m with
  | nil => simpa [Memory.put] using h
  | cons e m ih =>
    obtain ⟨j, b⟩ := e
    simp only [Memory.put] at h
    split at h
    · simpa using h
    · split at h
      · rcases List.mem_cons.1 h with h | h
        · exact .inl h
        · exact .inr (List.mem_cons_of_mem _ h)
      · rcases List.mem_cons.1 h with h | h
        · exact .inr (h ▸ List.mem_cons_self ..)
        · exact (ih h).imp_right (List.mem_cons_of_mem _)

theorem Memory.wf_put {m : Memory} (h : m.wf) (a d) : (m.put a d).wf := by
  induction m with
  | nil => simp [Memory.put, Memory.wf]
  | cons e m ih =>
    obtain ⟨j, b⟩ := e
    obtain ⟨hj, hm⟩ := List.pairwise_cons.1 h
    simp only [Memory.put]
    split
    · rename_i hlt
      refine List.pairwise_cons.2 ⟨fun c hc => ?_, h⟩
      rcases List.mem_cons.1 hc with rfl | hc
      · exact hlt
      · exact Nat.lt_trans hlt (hj c hc)
    · split
      · subst_vars
        exact List.pairwise_cons.2 ⟨hj, hm⟩
      · refine List.pairwise_cons.2 ⟨fun c hc => ?_, ih hm⟩
        rcases Memory.mem_put hc with rfl | hc
        · show j < a
          omega
        · exact hj c hc

theorem Memory.wf_ofBytes (a : Nat) (bs : List Byte) : (Memory.ofBytes a bs).wf := by
  have key : ∀ bs a c, c ∈ Memory.ofBytes a bs → a ≤ c.1 := by
    intro bs
    induction bs with
    | nil => simp [Memory.ofBytes]
    | cons b bs ih =>
      intro a c hc
      rcases List.mem_cons.1 hc with rfl | hc
      · exact Nat.le_refl _
      · exact Nat.le_of_succ_le (ih _ _ hc)
  induction bs generalizing a with
  | nil => simp [Memory.ofBytes, Memory.wf]
  | cons b bs ih => exact List.pairwise_cons.2 ⟨fun c hc => key bs (a + 1) c hc, ih _⟩

/-! One access. -/

/-- The buffer after reset is in canonical form. -/
theorem Memory.wf_reset (p : Params) : (State.resetWith p).buf.wf := List.Pairwise.nil

/-- A listed byte is a member. -/
theorem Memory.mem_of_byte? {m : Memory} {a b} (h : m.byte? a = some b) : (a, b) ∈ m := by
  induction m with
  | nil => simp [Memory.byte?] at h
  | cons c m ih =>
    obtain ⟨k, d⟩ := c
    by_cases hk : a = k
    · subst hk
      simp only [Memory.byte?, if_pos] at h
      simp [Option.some.inj h]
    · simp only [Memory.byte?, if_neg hk] at h
      exact List.mem_cons_of_mem _ (ih h)

/-- Canonical buffers that read alike are equal data. -/
theorem Memory.eq_of_byte? {m m' : Memory} (h : m.wf) (h' : m'.wf) (hb : ∀ a, m.byte? a = m'.byte? a) : m = m' := by
  induction m generalizing m' with
  | nil =>
    cases m' with
    | nil => rfl
    | cons c _ => simpa [Memory.byte?] using hb c.1
  | cons c m ih =>
    obtain ⟨k, d⟩ := c
    cases m' with
    | nil => simpa [Memory.byte?] using hb k
    | cons c' m' =>
      obtain ⟨k', d'⟩ := c'
      obtain ⟨h1, h2⟩ := List.pairwise_cons.1 h
      obtain ⟨h1', h2'⟩ := List.pairwise_cons.1 h'
      have low : ∀ {n : Memory} {j a : Nat}, (∀ c ∈ n, j < c.1) → a ≤ j → n.byte? a = none := by
        intro n j a hn ha
        by_contra hc
        obtain ⟨b, hb⟩ := Option.ne_none_iff_exists'.1 hc
        have := hn _ (Memory.mem_of_byte? hb)
        omega
      have hk : k = k' := by
        rcases Nat.lt_trichotomy k k' with hlt | heq | hgt
        · have := hb k
          simp [Memory.byte?, Nat.ne_of_lt hlt, low h1' (Nat.le_of_lt hlt)] at this
        · exact heq
        · have := hb k'
          simp [Memory.byte?, Nat.ne_of_lt hgt, low h1 (Nat.le_of_lt hgt)] at this
      subst hk
      have hd : d = d' := by simpa [Memory.byte?] using hb k
      subst hd
      have : m = m' := ih h2 h2' (fun a => by
        by_cases ha : a = k
        · subst ha; rw [low h1 (Nat.le_refl _), low h1' (Nat.le_refl _)]
        · simpa [Memory.byte?, ha] using hb a)
      rw [this]

theorem loadByte_ok_iff {p m a b} : loadByte p m a = .ok b ↔ a < p.capacity ∧ m.byte? a = some b := by
  unfold loadByte
  split
  · split <;> simp_all
  · simp_all

theorem storeByte_ok_iff {p m a d m'} : storeByte p m a d = .ok m' ↔ a < p.capacity ∧ m' = m.put a d := by
  unfold storeByte
  split <;> simp_all [eq_comm]

/-! Several accesses. -/

/-- Storing a byte keeps the canonical form. -/
theorem storeByte_wf {p m a d m'} (hm : Memory.wf m) (h : storeByte p m a d = .ok m') : Memory.wf m' :=
  (storeByte_ok_iff.1 h).2 ▸ Memory.wf_put hm a d

theorem loadBytes_ok_iff {p m} {n a : Nat} {bs} :
    loadBytes p m a n = .ok bs ↔
      bs.length = n ∧ ∀ k, k < n → a + k < p.capacity ∧ m.byte? (a + k) = bs[k]? := by
  induction n generalizing a bs with
  | zero =>
    constructor
    · intro h
      cases h
      simp
    · rintro ⟨h, -⟩
      rw [List.length_eq_zero_iff.1 h]
      rfl
  | succ n ih =>
    simp only [loadBytes]
    constructor
    · intro h
      split at h
      · cases h
      · rename_i b hb
        split at h
        · cases h
        · rename_i bs' hbs
          cases h
          obtain ⟨hl, hr⟩ := ih.1 hbs
          obtain ⟨hc, hm⟩ := loadByte_ok_iff.1 hb
          refine ⟨by simp [hl], fun k hk => ?_⟩
          cases k with
          | zero => exact ⟨hc, by simpa using hm⟩
          | succ k =>
            obtain ⟨h1, h2⟩ := hr k (by omega)
            refine ⟨by omega, ?_⟩
            rw [show a + (k + 1) = a + 1 + k by omega, h2]
            simp
    · rintro ⟨hl, hr⟩
      cases bs with
      | nil => simp at hl
      | cons b bs =>
        have h0 := hr 0 (by omega)
        have hb : loadByte p m a = .ok b := loadByte_ok_iff.2 ⟨by simpa using h0.1, by simpa using h0.2⟩
        have hbs : loadBytes p m (a + 1) n = .ok bs := by
          refine ih.2 ⟨by simpa using hl, fun k hk => ?_⟩
          have := hr (k + 1) (by omega)
          rw [show a + (k + 1) = a + 1 + k by omega] at this
          exact ⟨this.1, by simpa using this.2⟩
        simp [hb, hbs]

/-- When every byte is there, `loadBytes` succeeds. -/
theorem loadBytes_isOk {p m a n} (hc : a + n ≤ p.capacity)
    (hw : ∀ k, k < n → (Memory.byte? m (a + k)).isSome) : ∃ bs, loadBytes p m a n = .ok bs := by
  induction n generalizing a with
  | zero => exact ⟨[], rfl⟩
  | succ n ih =>
    obtain ⟨b, hb⟩ := Option.isSome_iff_exists.1 (hw 0 (by omega))
    obtain ⟨bs, hbs⟩ := ih (a := a + 1) (by omega) (fun k hk => by
      have := hw (k + 1) (by omega)
      rwa [show a + (k + 1) = a + 1 + k by omega] at this)
    refine ⟨b :: bs, ?_⟩
    have h1 : loadByte p m a = .ok b := loadByte_ok_iff.2 ⟨by omega, by simpa using hb⟩
    simp [loadBytes, h1, hbs]

/-- Everything `storeBytes` does. -/
theorem storeBytes_ok {p m a ds m'} (h : storeBytes p m a ds = .ok m') :
    (∀ k, m'.byte? k = if a ≤ k ∧ k < a + ds.length then ds[k - a]? else m.byte? k) ∧
      (m.wf → m'.wf) ∧
      ∀ c ∈ m', c ∈ m ∨ c.1 < p.capacity := by
  induction ds generalizing m a with
  | nil =>
    cases h
    refine ⟨fun k => ?_, id, fun c hc => .inl hc⟩
    have : ¬ (a ≤ k ∧ k < a + ([] : List Byte).length) := by simp
    rw [if_neg this]
  | cons d ds ih =>
    simp only [storeBytes] at h
    split at h
    · cases h
    · rename_i m1 h1
      obtain ⟨hc, rfl⟩ := storeByte_ok_iff.1 h1
      obtain ⟨hr, hw, hi⟩ := ih h
      refine ⟨fun k => ?_, fun hm => hw (Memory.wf_put hm _ _), fun c hc' => ?_⟩
      · rw [hr k, Memory.byte?_put]
        by_cases hk : k = a
        · subst hk
          simp
        · by_cases hk2 : a + 1 ≤ k ∧ k < a + 1 + ds.length
          · rw [if_pos hk2, if_pos (by simp; omega), show k - a = (k - (a + 1)) + 1 by omega]
            simp
          · rw [if_neg hk2, if_neg hk, if_neg (by simp; omega)]
      · rcases hi c hc' with h2 | h2
        · rcases Memory.mem_put h2 with rfl | h2
          · exact .inr hc
          · exact .inl h2
        · exact .inr h2

/-- When the offsets exist, `storeBytes` succeeds. -/
theorem storeBytes_isOk {p} {m : Memory} {a ds} (hc : a + ds.length ≤ p.capacity) :
    ∃ m', storeBytes p m a ds = .ok m' := by
  induction ds generalizing m a with
  | nil => exact ⟨m, rfl⟩
  | cons d ds ih =>
    have h1 : storeByte p m a d = .ok (m.put a d) :=
      storeByte_ok_iff.2 ⟨by simp at hc; omega, rfl⟩
    obtain ⟨m', h2⟩ := ih (m := m.put a d) (a := a + 1) (by simp at hc; omega)
    exact ⟨m', by simp [storeBytes, h1, h2]⟩

/-! The carry store. -/

theorem CarryStore.getElem?_loadFrom (cs : CarryStore) (k : Nat) (bs : List Byte) (hk : k + bs.length ≤ 7) (j : Nat) :
    (cs.loadFrom k bs)[j]? = if k ≤ j ∧ j < k + bs.length then bs[j - k]? else cs[j]? := by
  induction bs generalizing cs k with
  | nil =>
    have : ¬ (k ≤ j ∧ j < k + ([] : List Byte).length) := by simp
    rw [if_neg this]
    rfl
  | cons b bs ih =>
    simp only [List.length_cons] at hk
    simp only [CarryStore.loadFrom]
    rw [ih _ _ (by omega), Vector.getElem?_setIfInBounds]
    by_cases hj : j = k
    · subst hj
      rw [if_neg (by omega), if_pos rfl, if_pos (by omega), if_pos (by simp)]
      simp
    · by_cases hj2 : k + 1 ≤ j ∧ j < k + 1 + bs.length
      · rw [if_pos hj2, if_pos (by simp; omega), show j - k = (j - (k + 1)) + 1 by omega]
        simp
      · rw [if_neg hj2, if_neg (fun h => hj h.symm), if_neg (by simp; omega)]

/-- Everything `CarryStore.load` does. -/
theorem CarryStore.getElem?_load (cs : CarryStore) (bs : List Byte) (h : bs.length ≤ 7) (j : Nat) :
    (cs.load bs)[j]? = if j < bs.length then bs[j]? else cs[j]? := by
  rw [CarryStore.load, CarryStore.getElem?_loadFrom _ _ _ (by omega)]
  simp

theorem CarryStore.length_first (cs : CarryStore) {n : Nat} (h : n ≤ 7) : (cs.first n).length = n := by
  simp [CarryStore.first, h]

theorem CarryStore.getElem?_first (cs : CarryStore) {n k : Nat} (h : k < n) : (cs.first n)[k]? = cs[k]? := by
  simp only [CarryStore.first, List.getElem?_take, if_pos h]
  rw [← Vector.getElem?_toList]

/-- Reading back what was loaded. -/
theorem CarryStore.first_load (cs : CarryStore) (bs : List Byte) (h : bs.length ≤ 7) :
    (cs.load bs).first bs.length = bs := by
  apply List.ext_getElem?
  intro k
  by_cases hk : k < bs.length
  · rw [CarryStore.getElem?_first _ hk, CarryStore.getElem?_load _ _ h, if_pos hk]
  · have hl := CarryStore.length_first (cs.load bs) h
    rw [List.getElem?_eq_none (by omega), List.getElem?_eq_none (by omega)]

end Sys2Proof.Machine
end

