-- ==== Sys2Proof/Laws/Detector.lean ====
section
/-! SUPPORT. What the scan and the realignment give, said once for every caller. -/

namespace Sys2Proof.Machine

/-- The record at `off` is examined by the scan and carries the X tag (41_boundary_detector.md R110). -/
def IsXRecord (p : Params) (m : Memory) (bytesFilled off : Nat) : Prop :=
  tagOffset p.recOrder off < bytesFilled ∧
    (m.byte? (tagOffset p.recOrder off)).map byteTag = some Axis.x.code

/-- The record at `off` is not examined, or its tag byte is known and is not X. -/
def IsPassedRecord (p : Params) (m : Memory) (bytesFilled off : Nat) : Prop :=
  tagOffset p.recOrder off < bytesFilled →
    ∃ b, m.byte? (tagOffset p.recOrder off) = some b ∧ byteTag b ≠ Axis.x.code

theorem IsPassedRecord.not_isX {p m bf off} (h : IsPassedRecord p m bf off) : ¬ IsXRecord p m bf off := by
  rintro ⟨hlt, hx⟩
  obtain ⟨b, hb, hn⟩ := h hlt
  exact hn (by simpa [hb] using hx)

/-- Everything the loop of the scan does: the offset it stops at has the parity it started with, holds an X record if it
lies in the fill, and every record before it was passed. -/
theorem scanFrom_ok {p m bf fuel off r} (h : scanFrom p m bf fuel off = .ok r) (hf : bf ≤ off + 2 * fuel) :
    off ≤ r ∧ 2 ∣ r - off ∧ (r < bf → IsXRecord p m bf r) ∧
      ∀ k, off ≤ k → k < r → 2 ∣ k - off → IsPassedRecord p m bf k := by
  induction fuel generalizing off with
  | zero =>
    cases h
    exact ⟨Nat.le_refl _, by simp, fun hlt => absurd hlt (by omega), fun k h1 h2 => absurd h2 (by omega)⟩
  | succ n ih =>
    simp only [scanFrom] at h
    -- Going past the record at `off`, which is no X record.
    have past : IsPassedRecord p m bf off → scanFrom p m bf n (off + 2) = .ok r →
        off ≤ r ∧ 2 ∣ r - off ∧ (r < bf → IsXRecord p m bf r) ∧
          ∀ k, off ≤ k → k < r → 2 ∣ k - off → IsPassedRecord p m bf k := by
      intro hn h
      obtain ⟨h1, h2, h3, h4⟩ := ih h (by omega)
      refine ⟨by omega, by omega, h3, fun k hk1 hk2 hk3 => ?_⟩
      by_cases hk : k = off
      · exact hk ▸ hn
      · exact h4 k (by omega) hk2 (by omega)
    split at h
    · rename_i hlt
      split at h
      · rename_i htag
        split at h
        · cases h
        · rename_i b hb
          obtain ⟨-, hb⟩ := loadByte_ok_iff.1 hb
          split at h
          · rename_i hx
            cases h
            exact ⟨Nat.le_refl _, by simp, fun _ => ⟨htag, by simp [hb, hx]⟩,
              fun k h1 h2 => absurd h2 (by omega)⟩
          · rename_i hx
            exact past (fun _ => ⟨b, hb, hx⟩) h
      · rename_i htag
        exact past (fun hr => absurd hr htag) h
    · cases h
      exact ⟨Nat.le_refl _, by simp, fun hlt => absurd hlt (by omega), fun k h1 h2 => absurd h2 (by omega)⟩

/-- The scan completes when every byte of the fill is there. -/
theorem scanFrom_isOk {p m bf} (hc : bf ≤ p.capacity) (hw : ∀ a, a < bf → (Memory.byte? m a).isSome)
    (fuel off : Nat) : ∃ r, scanFrom p m bf fuel off = .ok r := by
  induction fuel generalizing off with
  | zero => exact ⟨off, rfl⟩
  | succ n ih =>
    simp only [scanFrom]
    by_cases h1 : off < bf
    · by_cases h2 : tagOffset p.recOrder off < bf
      · obtain ⟨b, hb⟩ := Option.isSome_iff_exists.1 (hw _ h2)
        have h3 : loadByte p m (tagOffset p.recOrder off) = .ok b :=
          loadByte_ok_iff.2 ⟨by omega, hb⟩
        by_cases hx : byteTag b = Axis.x.code
        · exact ⟨off, by simp [h1, h2, h3, hx]⟩
        · simpa [h1, h2, h3, hx] using ih (off + 2)
      · simpa [h1, h2] using ih (off + 2)
    · exact ⟨off, by simp [h1]⟩

/-- The scan reads nothing but the tag bytes of the fill: memories that agree there give the same result. -/
theorem scanFrom_congr {p m m' bf} (h : ∀ a, a < bf → Memory.byte? m' a = Memory.byte? m a) (fuel off : Nat) :
    scanFrom p m' bf fuel off = scanFrom p m bf fuel off := by
  induction fuel generalizing off with
  | zero => rfl
  | succ n ih =>
    simp only [scanFrom]
    by_cases h2 : tagOffset p.recOrder off < bf
    · have : loadByte p m' (tagOffset p.recOrder off) = loadByte p m (tagOffset p.recOrder off) := by
        simp only [loadByte, h _ h2]
      simp only [this, ih]
    · simp only [if_neg h2, ih]

/-- Everything `findStart` does (41_boundary_detector.md R112). -/
theorem findStart_ok {p m bf start found} (h : findStart p m bf = .ok (start, found)) :
    start ≤ bf ∧ (found = true ↔ start < bf) ∧ (2 ∣ start ∨ start = bf) ∧
      (found = true → 2 ∣ start ∧ IsXRecord p m bf start) ∧
      ∀ k, k < start → 2 ∣ k → IsPassedRecord p m bf k := by
  simp only [findStart] at h
  split at h
  · cases h
  · rename_i off hs
    obtain ⟨-, h2, h3, h4⟩ := scanFrom_ok hs (by omega)
    cases h
    simp only [Nat.sub_zero] at h2 h4
    refine ⟨Nat.min_le_right _ _, ?_, ?_, ?_, ?_⟩
    · simp
    · by_cases hlt : off ≤ bf
      · exact .inl (by rwa [Nat.min_eq_left hlt])
      · exact .inr (Nat.min_eq_right (by omega))
    · intro hf
      have hlt : off < bf := by simpa using hf
      rw [Nat.min_eq_left (by omega)]
      exact ⟨h2, h3 hlt⟩
    · exact fun k hk hk2 => h4 k (Nat.zero_le _) (by omega) hk2

/-- The detector completes when every byte of the fill is there. -/
theorem findStart_isOk {p m bf} (hc : bf ≤ p.capacity) (hw : ∀ a, a < bf → (Memory.byte? m a).isSome) :
    ∃ start found, findStart p m bf = .ok (start, found) := by
  obtain ⟨r, hr⟩ := scanFrom_isOk hc hw ((bf + 1) / 2) 0
  exact ⟨min r bf, decide (r < bf), by simp only [findStart, hr]⟩

/-- The detector reads nothing outside the fill. -/
theorem findStart_congr {p m m' bf} (h : ∀ a, a < bf → Memory.byte? m' a = Memory.byte? m a) :
    findStart p m' bf = findStart p m bf := by
  simp only [findStart, scanFrom_congr h]

/-- Everything `realign` does (42_realigner.md R127). -/
theorem realign_ok {p m bf sz r} (hs : 0 < sz) (h : realign p m bf sz = .ok r) :
    findStart p m bf = .ok (r.start, r.found) ∧ r.count = (bf - r.start) / sz ∧
      r.carryNext = (bf - r.start) % sz ∧ r.start + r.count * sz + r.carryNext = bf := by
  simp only [realign] at h
  split at h
  · cases h
  · rename_i start found hf
    cases h
    have hle := (findStart_ok hf).1
    have hdm := Nat.div_add_mod (bf - start) sz
    have hcomm := Nat.mul_comm sz ((bf - start) / sz)
    have hm := Nat.mod_lt (bf - start) hs
    refine ⟨hf, rfl, ?_, ?_⟩ <;> dsimp only <;> omega

theorem realign_eq {p m bf sz start found} (h : findStart p m bf = .ok (start, found)) :
    realign p m bf sz = .ok
      { start := start, found := found, count := (bf - start) / sz,
        carryNext := bf - start - (bf - start) / sz * sz } := by
  simp only [realign, h]

end Sys2Proof.Machine
end

