-- ==== Sys2Proof/Laws/Operands.lean ====
section
/-! SUPPORT. The set size, the sizing and the axis numbers. -/

namespace Sys2Proof.Machine

theorem setSize_cases (st : Bool) : setSize st = 6 ∧ st = false ∨ setSize st = 8 ∧ st = true := by
  cases st <;> simp [setSize]

theorem State.setSize_cases (s : State) : s.setSize = 6 ∨ s.setSize = 8 :=
  (Machine.setSize_cases s.storeTemp).imp And.left And.left

theorem State.setSize_pos (s : State) : 0 < s.setSize := by
  rcases s.setSize_cases with h | h <;> omega

theorem State.setSize_le (s : State) : s.setSize ≤ 8 := by
  rcases s.setSize_cases with h | h <;> omega

@[simp] theorem Axis.ofCode_code (a : Axis) : Axis.ofCode a.code = a := by cases a <;> rfl

theorem Axis.code_ofCode (c : Tag) : (Axis.ofCode c).code = c := by
  revert c
  decide

theorem Axis.code_toNat_lt (a : Axis) : a.code.toNat < 4 := by cases a <;> decide

/-- The record of a present axis lies within its set (40_codec.md R93). -/
theorem axis_inside {st : Bool} {axis : Axis} (h : axisPresent st axis = true) :
    2 * axis.code.toNat + 2 ≤ setSize st := by
  cases st <;> cases axis <;> simp_all [axisPresent, setSize, Axis.code]

/-- The clamp of `Sizing` keeps the transfer inside the buffer (42_realigner.md R121). -/
theorem sizing_fits {units sz capacity carry : Nat} (hc : carry ≤ capacity) :
    carry + sizing units sz capacity carry * sz ≤ capacity := by
  have h1 : sizing units sz capacity carry ≤ (capacity - carry) / sz := Nat.min_le_right _ _
  have h2 := Nat.mul_le_mul_right sz h1
  have h3 := Nat.div_mul_le_self (capacity - carry) sz
  omega

/-- With a legal `CAPACITY` the sizing is 0 exactly when fewer than `S` bytes are pending (42_realigner.md R121). -/
theorem State.requestedSamples_eq_zero (s : State) (units : Nat) :
    s.requestedSamples units = 0 ↔ units * 2 < s.setSize := by
  have hcap := s.params.capacity_ge
  have hcar := s.carryBytes.isLt
  have hpos := s.setSize_pos
  have hle := s.setSize_le
  have hmax : 1 ≤ (s.params.capacity - s.carryBytes) / s.setSize :=
    (Nat.le_div_iff_mul_le hpos).2 (by omega)
  have hreq : units * 2 / s.setSize = 0 ↔ units * 2 < s.setSize := by
    rw [Nat.div_eq_zero_iff]
    omega
  rw [State.requestedSamples, sizing, ← hreq]
  omega

end Sys2Proof.Machine
end

