-- ==== Sys2Proof/Laws/State.lean ====
section
/-! SUPPORT. For each update of the state, one lemma per field, so that no later proof unfolds a record update. -/

namespace Sys2Proof.Machine

@[simp] theorem respond_eq_quiet (s : State) (r : Resp) : s.respond r = s.quiet (some r) := rfl

@[simp] theorem noResponse_eq_quiet (s : State) : s.noResponse = s.quiet none := rfl

@[simp] theorem protocolError_eq_quiet (s : State) :
    s.protocolError = { s with protoErr := true }.quiet none := rfl

@[simp] theorem quiet_params (s : State) (r : Option Resp) : (s.quiet r).params = s.params := rfl
@[simp] theorem quiet_buf (s : State) (r : Option Resp) : (s.quiet r).buf = s.buf := rfl
@[simp] theorem quiet_carry (s : State) (r : Option Resp) : (s.quiet r).carry = s.carry := rfl
@[simp] theorem quiet_carryBytes (s : State) (r : Option Resp) : (s.quiet r).carryBytes = s.carryBytes := rfl
@[simp] theorem quiet_startOffset (s : State) (r : Option Resp) : (s.quiet r).startOffset = s.startOffset := rfl
@[simp] theorem quiet_sampleCount (s : State) (r : Option Resp) : (s.quiet r).sampleCount = s.sampleCount := rfl
@[simp] theorem quiet_bytesFilled (s : State) (r : Option Resp) : (s.quiet r).bytesFilled = s.bytesFilled := rfl
@[simp] theorem quiet_storeTemp (s : State) (r : Option Resp) : (s.quiet r).storeTemp = s.storeTemp := rfl
@[simp] theorem quiet_phase (s : State) (r : Option Resp) : (s.quiet r).phase = s.phase := rfl
@[simp] theorem quiet_xferLen (s : State) (r : Option Resp) : (s.quiet r).xferLen = s.xferLen := rfl
@[simp] theorem quiet_wrCount (s : State) (r : Option Resp) : (s.quiet r).wrCount = s.wrCount := rfl
@[simp] theorem quiet_desync (s : State) (r : Option Resp) : (s.quiet r).desync = s.desync := rfl
@[simp] theorem quiet_xferFail (s : State) (r : Option Resp) : (s.quiet r).xferFail = s.xferFail := rfl
@[simp] theorem quiet_protoErr (s : State) (r : Option Resp) : (s.quiet r).protoErr = s.protoErr := rfl
@[simp] theorem quiet_inputs (s : State) (r : Option Resp) : (s.quiet r).inputs = s.inputs := rfl
@[simp] theorem quiet_freeCount (s : State) (r : Option Resp) : (s.quiet r).freeCount = s.freeCount + 1 := rfl

@[simp] theorem quiet_resp (s : State) (r : Option Resp) : (s.quiet r).out.resp = r := rfl
@[simp] theorem quiet_respSamples (s : State) (r : Option Resp) : (s.quiet r).out.respSamples = 0 := rfl
@[simp] theorem quiet_xferStart (s : State) (r : Option Resp) : (s.quiet r).out.xferStart = false := rfl
@[simp] theorem quiet_codec (s : State) (r : Option Resp) : (s.quiet r).out.codec = none := rfl

@[simp] theorem respondIssued_params (s : State) (n : Nat) : (s.respondIssued n).params = s.params := rfl
@[simp] theorem respondIssued_buf (s : State) (n : Nat) : (s.respondIssued n).buf = s.buf := rfl
@[simp] theorem respondIssued_carry (s : State) (n : Nat) : (s.respondIssued n).carry = s.carry := rfl
@[simp] theorem respondIssued_carryBytes (s : State) (n : Nat) : (s.respondIssued n).carryBytes = s.carryBytes := rfl
@[simp] theorem respondIssued_startOffset (s : State) (n : Nat) : (s.respondIssued n).startOffset = s.startOffset := rfl
@[simp] theorem respondIssued_sampleCount (s : State) (n : Nat) : (s.respondIssued n).sampleCount = s.sampleCount := rfl
@[simp] theorem respondIssued_bytesFilled (s : State) (n : Nat) : (s.respondIssued n).bytesFilled = s.bytesFilled := rfl
@[simp] theorem respondIssued_storeTemp (s : State) (n : Nat) : (s.respondIssued n).storeTemp = s.storeTemp := rfl
@[simp] theorem respondIssued_phase (s : State) (n : Nat) : (s.respondIssued n).phase = s.phase := rfl
@[simp] theorem respondIssued_xferLen (s : State) (n : Nat) : (s.respondIssued n).xferLen = s.xferLen := rfl
@[simp] theorem respondIssued_wrCount (s : State) (n : Nat) : (s.respondIssued n).wrCount = s.wrCount := rfl
@[simp] theorem respondIssued_desync (s : State) (n : Nat) : (s.respondIssued n).desync = s.desync := rfl
@[simp] theorem respondIssued_xferFail (s : State) (n : Nat) : (s.respondIssued n).xferFail = s.xferFail := rfl
@[simp] theorem respondIssued_protoErr (s : State) (n : Nat) : (s.respondIssued n).protoErr = s.protoErr := rfl
@[simp] theorem respondIssued_inputs (s : State) (n : Nat) : (s.respondIssued n).inputs = s.inputs := rfl
@[simp] theorem respondIssued_freeCount (s : State) (n : Nat) : (s.respondIssued n).freeCount = s.freeCount + 1 := rfl

@[simp] theorem respondIssued_resp (s : State) (n : Nat) : (s.respondIssued n).out.resp = some .ok := rfl
@[simp] theorem respondIssued_respSamples (s : State) (n : Nat) : (s.respondIssued n).out.respSamples = n := rfl
@[simp] theorem respondIssued_xferStart (s : State) (n : Nat) : (s.respondIssued n).out.xferStart = true := rfl
@[simp] theorem respondIssued_codec (s : State) (n : Nat) : (s.respondIssued n).out.codec = none := rfl

@[simp] theorem respondSample_params (s : State) (d : Tag × Value) : (s.respondSample d).params = s.params := rfl
@[simp] theorem respondSample_buf (s : State) (d : Tag × Value) : (s.respondSample d).buf = s.buf := rfl
@[simp] theorem respondSample_carry (s : State) (d : Tag × Value) : (s.respondSample d).carry = s.carry := rfl
@[simp] theorem respondSample_carryBytes (s : State) (d : Tag × Value) : (s.respondSample d).carryBytes = s.carryBytes := rfl
@[simp] theorem respondSample_startOffset (s : State) (d : Tag × Value) : (s.respondSample d).startOffset = s.startOffset := rfl
@[simp] theorem respondSample_sampleCount (s : State) (d : Tag × Value) : (s.respondSample d).sampleCount = s.sampleCount := rfl
@[simp] theorem respondSample_bytesFilled (s : State) (d : Tag × Value) : (s.respondSample d).bytesFilled = s.bytesFilled := rfl
@[simp] theorem respondSample_storeTemp (s : State) (d : Tag × Value) : (s.respondSample d).storeTemp = s.storeTemp := rfl
@[simp] theorem respondSample_phase (s : State) (d : Tag × Value) : (s.respondSample d).phase = s.phase := rfl
@[simp] theorem respondSample_xferLen (s : State) (d : Tag × Value) : (s.respondSample d).xferLen = s.xferLen := rfl
@[simp] theorem respondSample_wrCount (s : State) (d : Tag × Value) : (s.respondSample d).wrCount = s.wrCount := rfl
@[simp] theorem respondSample_desync (s : State) (d : Tag × Value) : (s.respondSample d).desync = s.desync := rfl
@[simp] theorem respondSample_xferFail (s : State) (d : Tag × Value) : (s.respondSample d).xferFail = s.xferFail := rfl
@[simp] theorem respondSample_protoErr (s : State) (d : Tag × Value) : (s.respondSample d).protoErr = s.protoErr := rfl
@[simp] theorem respondSample_inputs (s : State) (d : Tag × Value) : (s.respondSample d).inputs = s.inputs := rfl
@[simp] theorem respondSample_freeCount (s : State) (d : Tag × Value) : (s.respondSample d).freeCount = s.freeCount := rfl

@[simp] theorem respondSample_resp (s : State) (d : Tag × Value) : (s.respondSample d).out.resp = some .ok := rfl
@[simp] theorem respondSample_respSamples (s : State) (d : Tag × Value) :
    (s.respondSample d).out.respSamples = 0 := rfl
@[simp] theorem respondSample_getTag (s : State) (d : Tag × Value) : (s.respondSample d).out.getTag = d.1 := rfl
@[simp] theorem respondSample_getValue (s : State) (d : Tag × Value) : (s.respondSample d).out.getValue = d.2 := rfl
@[simp] theorem respondSample_xferStart (s : State) (d : Tag × Value) :
    (s.respondSample d).out.xferStart = false := rfl
@[simp] theorem respondSample_codec (s : State) (d : Tag × Value) : (s.respondSample d).out.codec = none := rfl

@[simp] theorem answerRecord_params (s : State) (d : Tag × Value) : (s.answerRecord d).params = s.params := rfl
@[simp] theorem answerRecord_buf (s : State) (d : Tag × Value) : (s.answerRecord d).buf = s.buf := rfl
@[simp] theorem answerRecord_carry (s : State) (d : Tag × Value) : (s.answerRecord d).carry = s.carry := rfl
@[simp] theorem answerRecord_carryBytes (s : State) (d : Tag × Value) : (s.answerRecord d).carryBytes = s.carryBytes := rfl
@[simp] theorem answerRecord_startOffset (s : State) (d : Tag × Value) : (s.answerRecord d).startOffset = s.startOffset := rfl
@[simp] theorem answerRecord_sampleCount (s : State) (d : Tag × Value) : (s.answerRecord d).sampleCount = s.sampleCount := rfl
@[simp] theorem answerRecord_bytesFilled (s : State) (d : Tag × Value) : (s.answerRecord d).bytesFilled = s.bytesFilled := rfl
@[simp] theorem answerRecord_storeTemp (s : State) (d : Tag × Value) : (s.answerRecord d).storeTemp = s.storeTemp := rfl
@[simp] theorem answerRecord_phase (s : State) (d : Tag × Value) : (s.answerRecord d).phase = s.phase := rfl
@[simp] theorem answerRecord_xferLen (s : State) (d : Tag × Value) : (s.answerRecord d).xferLen = s.xferLen := rfl
@[simp] theorem answerRecord_wrCount (s : State) (d : Tag × Value) : (s.answerRecord d).wrCount = s.wrCount := rfl
@[simp] theorem answerRecord_desync (s : State) (d : Tag × Value) : (s.answerRecord d).desync = s.desync := rfl
@[simp] theorem answerRecord_xferFail (s : State) (d : Tag × Value) : (s.answerRecord d).xferFail = s.xferFail := rfl
@[simp] theorem answerRecord_protoErr (s : State) (d : Tag × Value) : (s.answerRecord d).protoErr = s.protoErr := rfl
@[simp] theorem answerRecord_inputs (s : State) (d : Tag × Value) : (s.answerRecord d).inputs = s.inputs := rfl
@[simp] theorem answerRecord_freeCount (s : State) (d : Tag × Value) : (s.answerRecord d).freeCount = s.freeCount + 1 := rfl

@[simp] theorem answerRecord_resp (s : State) (d : Tag × Value) : (s.answerRecord d).out.resp = none := rfl
@[simp] theorem answerRecord_respSamples (s : State) (d : Tag × Value) :
    (s.answerRecord d).out.respSamples = 0 := rfl
@[simp] theorem answerRecord_xferStart (s : State) (d : Tag × Value) :
    (s.answerRecord d).out.xferStart = false := rfl
@[simp] theorem answerRecord_codec (s : State) (d : Tag × Value) : (s.answerRecord d).out.codec = some d := rfl

@[simp] theorem publish_params (n : Nat) (r : Realigned) (tail : List Byte) (s : State) : (publish n r tail s).params = s.params := rfl
@[simp] theorem publish_buf (n : Nat) (r : Realigned) (tail : List Byte) (s : State) : (publish n r tail s).buf = s.buf := rfl
@[simp] theorem publish_carry (n : Nat) (r : Realigned) (tail : List Byte) (s : State) : (publish n r tail s).carry = s.carry.load tail := rfl
@[simp] theorem publish_carryBytes (n : Nat) (r : Realigned) (tail : List Byte) (s : State) : (publish n r tail s).carryBytes = Fin.ofNat 8 r.carryNext := rfl
@[simp] theorem publish_startOffset (n : Nat) (r : Realigned) (tail : List Byte) (s : State) : (publish n r tail s).startOffset = r.start := rfl
@[simp] theorem publish_sampleCount (n : Nat) (r : Realigned) (tail : List Byte) (s : State) : (publish n r tail s).sampleCount = r.count := rfl
@[simp] theorem publish_bytesFilled (n : Nat) (r : Realigned) (tail : List Byte) (s : State) : (publish n r tail s).bytesFilled = n := rfl
@[simp] theorem publish_storeTemp (n : Nat) (r : Realigned) (tail : List Byte) (s : State) : (publish n r tail s).storeTemp = s.storeTemp := rfl
@[simp] theorem publish_phase (n : Nat) (r : Realigned) (tail : List Byte) (s : State) : (publish n r tail s).phase = .complete := rfl
@[simp] theorem publish_xferLen (n : Nat) (r : Realigned) (tail : List Byte) (s : State) : (publish n r tail s).xferLen = s.xferLen := rfl
@[simp] theorem publish_wrCount (n : Nat) (r : Realigned) (tail : List Byte) (s : State) : (publish n r tail s).wrCount = s.wrCount := rfl
@[simp] theorem publish_desync (n : Nat) (r : Realigned) (tail : List Byte) (s : State) : (publish n r tail s).desync = desyncFlag r.found n := rfl
@[simp] theorem publish_xferFail (n : Nat) (r : Realigned) (tail : List Byte) (s : State) : (publish n r tail s).xferFail = false := rfl
@[simp] theorem publish_protoErr (n : Nat) (r : Realigned) (tail : List Byte) (s : State) : (publish n r tail s).protoErr = s.protoErr := rfl
@[simp] theorem publish_inputs (n : Nat) (r : Realigned) (tail : List Byte) (s : State) : (publish n r tail s).inputs = s.inputs := rfl
@[simp] theorem publish_out (n : Nat) (r : Realigned) (tail : List Byte) (s : State) : (publish n r tail s).out = s.out := rfl
@[simp] theorem publish_freeCount (n : Nat) (r : Realigned) (tail : List Byte) (s : State) : (publish n r tail s).freeCount = s.freeCount := rfl

@[simp] theorem flagSuccess_params (s : State) (found : Bool) (n : Nat) : (s.flagSuccess found n).params = s.params := rfl
@[simp] theorem flagSuccess_buf (s : State) (found : Bool) (n : Nat) : (s.flagSuccess found n).buf = s.buf := rfl
@[simp] theorem flagSuccess_carry (s : State) (found : Bool) (n : Nat) : (s.flagSuccess found n).carry = s.carry := rfl
@[simp] theorem flagSuccess_carryBytes (s : State) (found : Bool) (n : Nat) : (s.flagSuccess found n).carryBytes = s.carryBytes := rfl
@[simp] theorem flagSuccess_startOffset (s : State) (found : Bool) (n : Nat) : (s.flagSuccess found n).startOffset = s.startOffset := rfl
@[simp] theorem flagSuccess_sampleCount (s : State) (found : Bool) (n : Nat) : (s.flagSuccess found n).sampleCount = s.sampleCount := rfl
@[simp] theorem flagSuccess_bytesFilled (s : State) (found : Bool) (n : Nat) : (s.flagSuccess found n).bytesFilled = s.bytesFilled := rfl
@[simp] theorem flagSuccess_storeTemp (s : State) (found : Bool) (n : Nat) : (s.flagSuccess found n).storeTemp = s.storeTemp := rfl
@[simp] theorem flagSuccess_phase (s : State) (found : Bool) (n : Nat) : (s.flagSuccess found n).phase = s.phase := rfl
@[simp] theorem flagSuccess_xferLen (s : State) (found : Bool) (n : Nat) : (s.flagSuccess found n).xferLen = s.xferLen := rfl
@[simp] theorem flagSuccess_wrCount (s : State) (found : Bool) (n : Nat) : (s.flagSuccess found n).wrCount = s.wrCount := rfl
@[simp] theorem flagSuccess_desync (s : State) (found : Bool) (n : Nat) : (s.flagSuccess found n).desync = desyncFlag found n := rfl
@[simp] theorem flagSuccess_xferFail (s : State) (found : Bool) (n : Nat) : (s.flagSuccess found n).xferFail = false := rfl
@[simp] theorem flagSuccess_protoErr (s : State) (found : Bool) (n : Nat) : (s.flagSuccess found n).protoErr = s.protoErr := rfl
@[simp] theorem flagSuccess_inputs (s : State) (found : Bool) (n : Nat) : (s.flagSuccess found n).inputs = s.inputs := rfl
@[simp] theorem flagSuccess_out (s : State) (found : Bool) (n : Nat) : (s.flagSuccess found n).out = s.out := rfl
@[simp] theorem flagSuccess_freeCount (s : State) (found : Bool) (n : Nat) : (s.flagSuccess found n).freeCount = s.freeCount := rfl

@[simp] theorem flagFailure_params (s : State) : (s.flagFailure).params = s.params := rfl
@[simp] theorem flagFailure_buf (s : State) : (s.flagFailure).buf = s.buf := rfl
@[simp] theorem flagFailure_carry (s : State) : (s.flagFailure).carry = s.carry := rfl
@[simp] theorem flagFailure_carryBytes (s : State) : (s.flagFailure).carryBytes = s.carryBytes := rfl
@[simp] theorem flagFailure_startOffset (s : State) : (s.flagFailure).startOffset = s.startOffset := rfl
@[simp] theorem flagFailure_sampleCount (s : State) : (s.flagFailure).sampleCount = s.sampleCount := rfl
@[simp] theorem flagFailure_bytesFilled (s : State) : (s.flagFailure).bytesFilled = s.bytesFilled := rfl
@[simp] theorem flagFailure_storeTemp (s : State) : (s.flagFailure).storeTemp = s.storeTemp := rfl
@[simp] theorem flagFailure_phase (s : State) : (s.flagFailure).phase = s.phase := rfl
@[simp] theorem flagFailure_xferLen (s : State) : (s.flagFailure).xferLen = s.xferLen := rfl
@[simp] theorem flagFailure_wrCount (s : State) : (s.flagFailure).wrCount = s.wrCount := rfl
@[simp] theorem flagFailure_desync (s : State) : (s.flagFailure).desync = false := rfl
@[simp] theorem flagFailure_xferFail (s : State) : (s.flagFailure).xferFail = true := rfl
@[simp] theorem flagFailure_protoErr (s : State) : (s.flagFailure).protoErr = s.protoErr := rfl
@[simp] theorem flagFailure_inputs (s : State) : (s.flagFailure).inputs = s.inputs := rfl
@[simp] theorem flagFailure_out (s : State) : (s.flagFailure).out = s.out := rfl
@[simp] theorem flagFailure_freeCount (s : State) : (s.flagFailure).freeCount = s.freeCount := rfl

@[simp] theorem present_params (s : State) (ws : List PortWord) : (s.present ws).params = s.params := rfl
@[simp] theorem present_buf (s : State) (ws : List PortWord) : (s.present ws).buf = s.buf := rfl
@[simp] theorem present_carry (s : State) (ws : List PortWord) : (s.present ws).carry = s.carry := rfl
@[simp] theorem present_carryBytes (s : State) (ws : List PortWord) : (s.present ws).carryBytes = s.carryBytes := rfl
@[simp] theorem present_startOffset (s : State) (ws : List PortWord) : (s.present ws).startOffset = s.startOffset := rfl
@[simp] theorem present_sampleCount (s : State) (ws : List PortWord) : (s.present ws).sampleCount = s.sampleCount := rfl
@[simp] theorem present_bytesFilled (s : State) (ws : List PortWord) : (s.present ws).bytesFilled = s.bytesFilled := rfl
@[simp] theorem present_storeTemp (s : State) (ws : List PortWord) : (s.present ws).storeTemp = s.storeTemp := rfl
@[simp] theorem present_phase (s : State) (ws : List PortWord) : (s.present ws).phase = s.phase := rfl
@[simp] theorem present_xferLen (s : State) (ws : List PortWord) : (s.present ws).xferLen = s.xferLen := rfl
@[simp] theorem present_wrCount (s : State) (ws : List PortWord) : (s.present ws).wrCount = s.wrCount := rfl
@[simp] theorem present_desync (s : State) (ws : List PortWord) : (s.present ws).desync = s.desync := rfl
@[simp] theorem present_xferFail (s : State) (ws : List PortWord) : (s.present ws).xferFail = s.xferFail := rfl
@[simp] theorem present_protoErr (s : State) (ws : List PortWord) : (s.present ws).protoErr = s.protoErr := rfl
@[simp] theorem present_inputs (s : State) (ws : List PortWord) : (s.present ws).inputs = s.inputs ++ ws := rfl
@[simp] theorem present_out (s : State) (ws : List PortWord) : (s.present ws).out = s.out := rfl
@[simp] theorem present_freeCount (s : State) (ws : List PortWord) : (s.present ws).freeCount = s.freeCount := rfl

@[simp] theorem withFetchWord_params (s : State) (nbits w : Nat) : (s.withFetchWord nbits w).params = s.params := rfl
@[simp] theorem withFetchWord_buf (s : State) (nbits w : Nat) : (s.withFetchWord nbits w).buf = s.buf := rfl
@[simp] theorem withFetchWord_carry (s : State) (nbits w : Nat) : (s.withFetchWord nbits w).carry = s.carry := rfl
@[simp] theorem withFetchWord_carryBytes (s : State) (nbits w : Nat) : (s.withFetchWord nbits w).carryBytes = s.carryBytes := rfl
@[simp] theorem withFetchWord_startOffset (s : State) (nbits w : Nat) : (s.withFetchWord nbits w).startOffset = s.startOffset := rfl
@[simp] theorem withFetchWord_sampleCount (s : State) (nbits w : Nat) : (s.withFetchWord nbits w).sampleCount = s.sampleCount := rfl
@[simp] theorem withFetchWord_bytesFilled (s : State) (nbits w : Nat) : (s.withFetchWord nbits w).bytesFilled = s.bytesFilled := rfl
@[simp] theorem withFetchWord_storeTemp (s : State) (nbits w : Nat) : (s.withFetchWord nbits w).storeTemp = s.storeTemp := rfl
@[simp] theorem withFetchWord_phase (s : State) (nbits w : Nat) : (s.withFetchWord nbits w).phase = s.phase := rfl
@[simp] theorem withFetchWord_xferLen (s : State) (nbits w : Nat) : (s.withFetchWord nbits w).xferLen = s.xferLen := rfl
@[simp] theorem withFetchWord_wrCount (s : State) (nbits w : Nat) : (s.withFetchWord nbits w).wrCount = s.wrCount := rfl
@[simp] theorem withFetchWord_desync (s : State) (nbits w : Nat) : (s.withFetchWord nbits w).desync = s.desync := rfl
@[simp] theorem withFetchWord_xferFail (s : State) (nbits w : Nat) : (s.withFetchWord nbits w).xferFail = s.xferFail := rfl
@[simp] theorem withFetchWord_protoErr (s : State) (nbits w : Nat) : (s.withFetchWord nbits w).protoErr = s.protoErr := rfl
@[simp] theorem withFetchWord_inputs (s : State) (nbits w : Nat) : (s.withFetchWord nbits w).inputs = (tableWord nbits w).getD (.resetPin 0) :: s.inputs := rfl
@[simp] theorem withFetchWord_out (s : State) (nbits w : Nat) : (s.withFetchWord nbits w).out = s.out := rfl
@[simp] theorem withFetchWord_freeCount (s : State) (nbits w : Nat) : (s.withFetchWord nbits w).freeCount = s.freeCount := rfl

end Sys2Proof.Machine
end

