-- ==== Sys2Proof/Laws/Exec.lean ====
section
/-! SUPPORT. For every operation, what it can do: one inversion lemma each ("if it answers a next state, then ..."),
and one lemma each that gives its result where it is accepted. -/

namespace Sys2Proof.Machine

theorem loadRecord_ok_iff {p m off d} :
    loadRecord p m off = .ok d ↔
      off + 1 < p.capacity ∧ ∃ b0 b1, m.byte? off = some b0 ∧ m.byte? (off + 1) = some b1 ∧
        d = decodeInOrder p.recOrder b0 b1 := by
  unfold loadRecord
  constructor
  · intro h
    split at h
    · cases h
    · rename_i b0 h0
      split at h
      · cases h
      · rename_i b1 h1
        cases h
        obtain ⟨-, h0⟩ := loadByte_ok_iff.1 h0
        obtain ⟨hc, h1⟩ := loadByte_ok_iff.1 h1
        exact ⟨hc, b0, b1, h0, h1, rfl⟩
  · rintro ⟨hc, b0, b1, h0, h1, rfl⟩
    have h0 : loadByte p m off = .ok b0 := loadByte_ok_iff.2 ⟨by omega, h0⟩
    have h1 : loadByte p m (off + 1) = .ok b1 := loadByte_ok_iff.2 ⟨hc, h1⟩
    simp [h0, h1]

/-- `GET` either refuses and changes nothing, or answers with the decoded record. -/
theorem execGet_next {index axis s t} (h : execGet index axis s = .next t) :
    (s.phase ≠ .complete ∧ t = s.quiet (some .rejPhase)) ∨
    (s.phase = .complete ∧ (s.sampleCount ≤ index ∨ axisPresent s.storeTemp axis = false) ∧
      t = s.quiet (some .rejArg)) ∨
    (s.phase = .complete ∧ index < s.sampleCount ∧ axisPresent s.storeTemp axis = true ∧
      ∃ d, loadRecord s.params s.buf (recordOffset s.startOffset s.setSize index axis) = .ok d ∧
        t = s.respondSample d) := by
  unfold execGet at h
  split at h
  · rename_i hp
    cases h
    exact .inl ⟨hp, rfl⟩
  · rename_i hp
    have hp : s.phase = .complete := by simpa using hp
    split at h
    · rename_i hi
      cases h
      exact .inr (.inl ⟨hp, .inl hi, rfl⟩)
    · rename_i hi
      split at h
      · rename_i ha
        cases h
        exact .inr (.inl ⟨hp, .inr ha, rfl⟩)
      · rename_i ha
        split at h
        · cases h
        · rename_i d hd
          cases h
          exact .inr (.inr ⟨hp, by omega, by simpa using ha, d, hd, rfl⟩)

/-- `CFG` either refuses and changes nothing, or writes `storeTemp` and perhaps the carry count. -/
theorem execCfg_next {st s t} (h : execCfg st s = .next t) :
    (s.phase ≠ .free ∧ t = s.quiet (some .rejPhase)) ∨
    (s.phase = .free ∧
      t = ({ s with storeTemp := st, carryBytes := if st = s.storeTemp then s.carryBytes else 0 } : State).quiet
        (some .ok)) := by
  unfold execCfg at h
  split at h <;> rename_i hp <;> cases h
  · exact .inl ⟨hp, rfl⟩
  · exact .inr ⟨by simpa using hp, rfl⟩

/-- The accepted `ISSUE` cannot stop: the carry prefix fits every legal buffer. -/
theorem issueTransfer_eq (n : Nat) (s : State) :
    ∃ m, storeBytes s.params s.buf 0 (s.carry.first s.carryBytes) = .ok m ∧
      issueTransfer n s = .next
        (({ s with buf := m, xferLen := n * s.setSize, wrCount := 0, phase := .pending } : State).respondIssued n) := by
  have hcap := s.params.capacity_ge
  have hcar := s.carryBytes.isLt
  have hlen := CarryStore.length_first s.carry (n := s.carryBytes) (by omega)
  obtain ⟨m, hm⟩ := storeBytes_isOk (p := s.params) (m := s.buf) (a := 0)
    (ds := s.carry.first s.carryBytes) (by omega)
  exact ⟨m, hm, by simp only [issueTransfer, hm]⟩

/-- What the carry prefix of an accepted `ISSUE` leaves in the buffer. -/
theorem issue_buffer {s : State} {m} (h : storeBytes s.params s.buf 0 (s.carry.first s.carryBytes) = .ok m) (k : Nat) :
    m.byte? k = if k < s.carryBytes then s.carry[k]? else s.buf.byte? k := by
  have hlen := CarryStore.length_first s.carry (n := s.carryBytes) (by omega)
  rw [(storeBytes_ok h).1 k, hlen]
  by_cases hk : k < s.carryBytes
  · rw [if_pos (by omega), if_pos hk, Nat.sub_zero, CarryStore.getElem?_first _ hk]
  · rw [if_neg (by omega), if_neg hk]

/-- `ISSUE` either refuses and changes nothing, or starts a transfer. -/
theorem execIssue_next {units busy s t} (h : execIssue units busy s = .next t) :
    (s.phase ≠ .free ∧ t = s.quiet (some .rejPhase)) ∨
    (s.phase = .free ∧ busy = true ∧ t = s.quiet (some .rejXportBusy)) ∨
    (s.phase = .free ∧ busy = false ∧ s.requestedSamples units = 0 ∧ t = s.quiet (some .notReady)) ∨
    (s.phase = .free ∧ busy = false ∧ 1 ≤ s.requestedSamples units ∧
      ∃ m, storeBytes s.params s.buf 0 (s.carry.first s.carryBytes) = .ok m ∧
        t = ({ s with
            buf := m, xferLen := s.requestedSamples units * s.setSize, wrCount := 0,
            phase := .pending } : State).respondIssued (s.requestedSamples units)) := by
  unfold execIssue at h
  split at h
  · rename_i hp
    cases h
    exact .inl ⟨hp, rfl⟩
  · rename_i hp
    have hp : s.phase = .free := by simpa using hp
    split at h
    · rename_i hb
      cases h
      exact .inr (.inl ⟨hp, hb, rfl⟩)
    · rename_i hb
      split at h
      · rename_i hn
        cases h
        exact .inr (.inr (.inl ⟨hp, by simpa using hb, by omega, rfl⟩))
      · rename_i hn
        obtain ⟨m, hm, he⟩ := issueTransfer_eq (s.requestedSamples units) s
        rw [he] at h
        cases h
        exact .inr (.inr (.inr ⟨hp, by simpa using hb, by omega, m, hm, rfl⟩))

/-- `RELEASE` either refuses and changes nothing, or frees the buffer. -/
theorem execRelease_next {s t} (h : execRelease s = .next t) :
    (s.phase ≠ .complete ∧ t = s.quiet (some .rejPhase)) ∨
    (s.phase = .complete ∧ t = ({ s with phase := .free } : State).quiet (some .ok)) := by
  unfold execRelease at h
  split at h <;> rename_i hp <;> cases h
  · exact .inl ⟨hp, rfl⟩
  · exact .inr ⟨by simpa using hp, rfl⟩

/-- `BYTE` either breaks the contract, or stores one byte. -/
theorem execByte_next {d s t} (h : execByte d s = .next t) :
    (¬(s.phase = .pending ∧ s.wrCount < s.xferLen) ∧ t = ({ s with protoErr := true } : State).quiet none) ∨
    (s.phase = .pending ∧ s.wrCount < s.xferLen ∧ s.writeOffset < s.params.capacity ∧
      t = ({ s with buf := s.buf.put s.writeOffset d, wrCount := s.wrCount + 1 } : State).quiet none) := by
  unfold execByte at h
  split at h
  · rename_i hp
    split at h
    · cases h
    · rename_i m hm
      obtain ⟨hc, rfl⟩ := storeByte_ok_iff.1 hm
      cases h
      exact .inr ⟨hp.1, hp.2, hc, rfl⟩
  · rename_i hp
    cases h
    exact .inl ⟨hp, rfl⟩

/-- `DONE_OK` either breaks the contract, or publishes a realignment. -/
theorem execDoneOk_next {s t} (h : execDoneOk s = .next t) :
    (s.phase ≠ .pending ∧ t = ({ s with protoErr := true } : State).quiet none) ∨
    (s.phase = .pending ∧ ∃ r tail,
      realign s.params s.buf (s.wrCount + s.carryBytes) s.setSize = .ok r ∧
      loadBytes s.params s.buf (r.start + r.count * s.setSize) r.carryNext = .ok tail ∧
      t = (publish (s.wrCount + s.carryBytes) r tail s).quiet none) := by
  unfold execDoneOk at h
  split at h
  · rename_i hp
    cases h
    exact .inl ⟨hp, rfl⟩
  · rename_i hp
    split at h
    · cases h
    · rename_i r hr
      split at h
      · cases h
      · rename_i tail ht
        cases h
        exact .inr ⟨by simpa using hp, r, tail, hr, ht, rfl⟩

/-- `DONE_FAIL` either breaks the contract, or publishes a failure. -/
theorem execDoneFail_next {s t} (h : execDoneFail s = .next t) :
    (s.phase ≠ .pending ∧ t = ({ s with protoErr := true } : State).quiet none) ∨
    (s.phase = .pending ∧ t = ({ s with
        desync := false, xferFail := true, bytesFilled := 0, startOffset := 0, sampleCount := 0,
        carryBytes := 0, phase := .complete } : State).quiet none) := by
  unfold execDoneFail at h
  split at h <;> rename_i hp <;> cases h
  · exact .inl ⟨hp, rfl⟩
  · exact .inr ⟨by simpa using hp, rfl⟩

/-- The remainder that `realign` gives fits the carry count's 3 bits. -/
theorem realign_carry_fits {p m bf} {s : State} {r} (h : realign p m bf s.setSize = .ok r) :
    (Fin.ofNat 8 r.carryNext).val = r.carryNext ∧ r.carryNext < s.setSize := by
  obtain ⟨-, -, hc, -⟩ := realign_ok s.setSize_pos h
  have h1 : r.carryNext < s.setSize := hc ▸ Nat.mod_lt _ s.setSize_pos
  have h2 := s.setSize_le
  exact ⟨Nat.mod_eq_of_lt (by omega), h1⟩

end Sys2Proof.Machine
end

