-- ==== Sys2Proof/Laws/PerInstr.lean ====
section
/-! SUPPORT. Statements about every operation as syntax, one lemma per constructor. -/

namespace Sys2Proof.Laws.EncodesItsRow

/-- The encoding of an operation stands on the ports of its row's format and carries the row's match bits under the row's
mask (spec/opcode_table.json; 30_encoding.md R71, R76, R77). -/
def Statement (i : Instr) : Prop :=
  (encode i).format = i.row.format ∧ (encode i).code &&& i.row.mask = i.row.pattern

/-- A record with tag bits `t` keeps them under the mask of the tag field. -/
theorem record_code (t : Tag) (v : Raw14) : (t ++ v).toNat &&& 0xC000 = t.toNat * 16384 := by
  have h : ((t ++ v) &&& 0xC000#16) = t ++ 0#14 := by
    apply BitVec.eq_of_getLsbD_eq
    intro k hk
    simp only [BitVec.getLsbD_and, BitVec.getLsbD_append]
    interval_cases k <;> simp
  have hw := congrArg BitVec.toNat h
  rw [BitVec.toNat_and] at hw
  have ht : (t ++ 0#14).toNat = t.toNat * 16384 := by
    rw [BitVec.toNat_append]
    simp [Nat.shiftLeft_eq]
  exact hw.trans ht

theorem recX (v : Raw14) : Statement (.recX v) := ⟨rfl, record_code 0b00 v⟩
theorem recY (v : Raw14) : Statement (.recY v) := ⟨rfl, record_code 0b01 v⟩
theorem recZ (v : Raw14) : Statement (.recZ v) := ⟨rfl, record_code 0b10 v⟩
theorem recT (v : Raw14) : Statement (.recT v) := ⟨rfl, record_code 0b11 v⟩
theorem nop : Statement .nop := ⟨rfl, rfl⟩
theorem cfg (storeTemp : Bool) : Statement (.cfg storeTemp) := ⟨rfl, show 1 &&& 0x7 = 1 from rfl⟩
theorem issue (units : Nat) (busy : Bool) : Statement (.issue units busy) := ⟨rfl, show 2 &&& 0x7 = 2 from rfl⟩
theorem get (index : Nat) (axis : Axis) : Statement (.get index axis) := ⟨rfl, show 3 &&& 0x7 = 3 from rfl⟩
theorem release : Statement .release := ⟨rfl, rfl⟩
theorem reserved101 : Statement .reserved101 := ⟨rfl, rfl⟩
theorem reserved110 : Statement .reserved110 := ⟨rfl, rfl⟩
theorem reserved111 : Statement .reserved111 := ⟨rfl, rfl⟩
theorem teIdle : Statement .teIdle := ⟨rfl, rfl⟩
theorem byte (inData : Byte) : Statement (.byte inData) := ⟨rfl, show 1 &&& 0x3 = 1 from rfl⟩
theorem doneOk : Statement .doneOk := ⟨rfl, rfl⟩
theorem doneFail : Statement .doneFail := ⟨rfl, rfl⟩
theorem reset : Statement .reset := ⟨rfl, rfl⟩

end Sys2Proof.Laws.EncodesItsRow
end

