-- ==== Sys2Proof/Tests/Slice0.lean ====
section
/-! SUPPORT. Tests with the expected results of 95_test_vectors.md, and for each statement that has hypotheses a theorem
that shows a concrete input meeting all of them. -/

namespace Sys2Proof.Tests

open Sys2Proof Sys2Proof.Machine

/-! States the tests start from. -/

/-- Program P2 right after its first `DONE_OK` (the state of GET1 to GET7). -/
def reading : State :=
  { State.reset with
    phase := .complete, startOffset := 2, sampleCount := 1, bytesFilled := 12, carryBytes := 4, xferLen := 12, wrCount := 12
    carry := #v[0x00, 0x12, 0x40, 0x22, 0, 0, 0]
    buf := Memory.ofBytes 0 [0xBF, 0xFF, 0x00, 0x11, 0x40, 0x21, 0x80, 0x31, 0x00, 0x12, 0x40, 0x22] }

/-- Program P2 right after its first `RELEASE`. -/
def carried : State := { reading with phase := .free }

/-- Program P2 right after its second accepted `ISSUE`. -/
def started : State :=
  { carried with
    phase := .pending, wrCount := 0
    buf := Memory.ofBytes 0 [0x00, 0x12, 0x40, 0x22, 0x40, 0x21, 0x80, 0x31, 0x00, 0x12, 0x40, 0x22] }

/-- Program P2 right before its second `DONE_OK`. -/
def delivered : State :=
  { started with
    wrCount := 12
    buf := Memory.ofBytes 0
      [0x00, 0x12, 0x40, 0x22, 0x80, 0x32, 0x00, 0x13, 0x40, 0x23, 0x80, 0x33, 0x00, 0x14, 0x40, 0x24] }

/-- A first transfer that delivered the seven bytes of vector A6, which hold no X record. -/
def noX : State :=
  { State.reset with
    phase := .pending, xferLen := 12, wrCount := 7
    buf := Memory.ofBytes 0 [0x40, 0x20, 0x80, 0x30, 0xC0, 0x40, 0x7F] }

/-- The same instance with the bytes of its records exchanged. -/
def loFirstParams : Params := { Config.resetParams with recOrder := .loFirst }

/-- One label executed, none when it stops. -/
def after (i : Instr) (s : State) : Option State := runAll [i] s

/-- What a step answers a command. -/
def answer (i : Instr) (s : State) : Option Resp := (after i s).bind (·.out.resp)

/-! Well-formedness: an operand that does not fit its port is refused. -/

theorem test_wellFormed_refuses_17_bit_units : (Instr.issue 65536 false).wellFormed Config.resetParams = false := by decide
theorem test_wellFormed_accepts_16_bit_units : (Instr.issue 65535 true).wellFormed Config.resetParams = true := by decide
/-- `CAPACITY = 16` gives `ADDR_W = 5` (00_scope.md R6). -/
theorem test_wellFormed_refuses_6_bit_index : (Instr.get 32 .x).wellFormed Config.resetParams = false := by decide
theorem test_wellFormed_accepts_5_bit_index : (Instr.get 31 .t).wellFormed Config.resetParams = true := by decide

/-! Decoding: words written out from 30_encoding.md R70, R71, R76, R77 and 70_reset_and_hazards.md R180. -/

theorem test_decode_recX : decode (.record 0b0001001000110100) = .ok (.recX 0x1234) := by decide
theorem test_decode_recY : decode (.record 0b0111111110011100) = .ok (.recY 0x3F9C) := by decide
theorem test_decode_recZ : decode (.record 0b1011110000011000) = .ok (.recZ 0x3C18) := by decide
theorem test_decode_recT : decode (.record 0b1100000100101100) = .ok (.recT 0x012C) := by decide
theorem test_decode_nop : decode (.host { cmdOp := 0b000 }) = .ok .nop := by decide
theorem test_decode_cfg : decode (.host { cmdOp := 0b001, cfgStoreTemp := 1 }) = .ok (.cfg true) := by decide
theorem test_decode_issue :
    decode (.host { cmdOp := 0b010, pendingUnits := 4, xportBusy := 1 }) = .ok (.issue 4 true) := by decide
theorem test_decode_get : decode (.host { cmdOp := 0b011, getIndex := 1, getAxis := 2 }) = .ok (.get 1 .z) := by decide
theorem test_decode_release : decode (.host { cmdOp := 0b100 }) = .ok .release := by decide
theorem test_decode_reserved101 : decode (.host { cmdOp := 0b101 }) = .ok .reserved101 := by decide
theorem test_decode_reserved110 : decode (.host { cmdOp := 0b110 }) = .ok .reserved110 := by decide
theorem test_decode_reserved111 : decode (.host { cmdOp := 0b111 }) = .ok .reserved111 := by decide
theorem test_decode_teIdle : decode (.transport { tev := 0b00, inData := 0x55 }) = .ok .teIdle := by decide
theorem test_decode_byte : decode (.transport { tev := 0b01, inData := 0x80 }) = .ok (.byte 0x80) := by decide
theorem test_decode_doneOk : decode (.transport { tev := 0b10 }) = .ok .doneOk := by decide
theorem test_decode_doneFail : decode (.transport { tev := 0b11 }) = .ok .doneFail := by decide
theorem test_decode_reset : decode (.resetPin 1) = .ok .reset := by decide
theorem test_decode_low_reset_refused : decode (.resetPin 0) = .error .resetPinLow := by decide

/-- The rows of spec/opcode_table.json at their own widths. -/
theorem test_table_words :
    decodeTableWord 16 0xC000 = some (.recT 0) ∧ decodeTableWord 3 0x3 = some (.get 0 .x) ∧
    decodeTableWord 2 0x3 = some .doneFail ∧ decodeTableWord 1 0x1 = some .reset ∧ decodeTableWord 8 0x4 = some .release := by
  decide

/-- `withFetchWord` makes the very next step run the row's operation (here `ISSUE 0`, vector Z1). -/
theorem test_fetched_word_runs :
    (match step (State.reset.withFetchWord 8 0x2) with
      | .next t => t.out.resp
      | _ => none) = some .notReady := by decide

/-! One clock's ports (30_encoding.md R80, 70_reset_and_hazards.md R180; the event beside `NOP`: log 14). -/

theorem test_clock_of_a_command : ({ host := { cmdOp := 0b100 } } : Clock).labels = [.host { cmdOp := 0b100 }] := by decide
theorem test_clock_of_an_event :
    ({ transport := { tev := 0b01, inData := 0x55 } } : Clock).labels = [.transport { tev := 0b01, inData := 0x55 }] := by decide
theorem test_clock_of_both :
    ({ host := { cmdOp := 0b100 }, transport := { tev := 0b10 } } : Clock).labels
      = [.transport { tev := 0b10 }, .host { cmdOp := 0b100 }] := by decide
theorem test_clock_of_reset :
    ({ rst := 1, host := { cmdOp := 0b100 }, transport := { tev := 0b10 } } : Clock).labels = [.resetPin 1] := by decide

/-- The level ports of program P2 after its first `DONE_OK`. -/
theorem test_level_ports :
    reading.levelPorts
      = { phase := 0b10, complete := 1, storeTemp := 0, carryBytes := 4, startOffset := 2, sampleCount := 1, bytesFilled := 12,
          desync := 0, xferFail := 0, protoErr := 0, xferLen := 12 } := by decide

/-! The codec (vectors DEC, ENC, LO of 2.1). -/

theorem test_DEC4 : decodeRecord 0x20 0x00 = (0, BitVec.ofInt 16 (-8192)) := by decide
theorem test_DEC7 : decodeRecord 0x7F 0x9C = (1, BitVec.ofInt 16 (-100)) := by decide
theorem test_DEC11 : decodeRecord 0xFF 0xFF = (3, BitVec.ofInt 16 (-1)) := by decide
theorem test_DEC14 : decodeRecord 0x01 0x00 = (0, 256) := by decide
theorem test_ENC5 : encodeRecord 0 (-8192) = (0x20, 0x00) := by decide
theorem test_ENC9 : encodeRecord 2 (-1000) = (0xBC, 0x18) := by decide
theorem test_LO1 : (decodeInOrder .loFirst 0x9C 0x7F).2.toInt = -100 ∧ (decodeInOrder .hiFirst 0x9C 0x7F).2.toInt = 7295 := by
  decide
theorem test_recX_answers_DEC2 : (after (.recX 0x0001) started).bind (·.out.codec) = some (0, 1) := by decide
theorem test_recY_answers_DEC16 : (after (.recY 0x2DCC) reading).bind (·.out.codec) = some (1, BitVec.ofInt 16 (-4660)) := by
  decide
theorem test_recZ_answers_DEC9 : (after (.recZ 0x2000) carried).bind (·.out.codec) = some (2, BitVec.ofInt 16 (-8192)) := by
  decide
/-- R79 (c): a T record with `storeTemp = 0` is decoded like any other (DEC10). -/
theorem test_recT_answers_DEC10 : (after (.recT 0x012C) State.reset).bind (·.out.codec) = some (3, 300) := by decide

/-! `RecordOffset` and `GET` (vectors of 2.2). -/

theorem test_O8 : recordOffset 4 6 169 .z = 1022 := by decide
theorem test_GET2 : sampleAnswer reading 0 .y = some (1, 33) := by decide
theorem test_GET4 : answer (.get 1 .x) reading = some .rejArg := by decide
theorem test_GET5 : answer (.get 0 .t) reading = some .rejArg := by decide

/-! `FindStart` and `Realign` (vectors of 2.3). -/

theorem test_S1 :
    realign Config.resetParams
      (Memory.ofBytes 0 [0x55, 0xAA, 0x00, 0x10, 0x40, 0x20, 0x80, 0x30, 0x00, 0x11, 0x40, 0x21, 0x80, 0x31]) 14 6
      = .ok { start := 2, found := true, count := 2, carryNext := 0 } := by decide
theorem test_A6 :
    realign Config.resetParams (Memory.ofBytes 0 [0x40, 0x20, 0x80, 0x30, 0xC0, 0x40, 0x7F]) 7 6
      = .ok { start := 7, found := false, count := 0, carryNext := 0 } := by decide
theorem test_A11 :
    realign Config.resetParams (Memory.ofBytes 0 [0x40, 0x00, 0x00]) 3 6
      = .ok { start := 2, found := true, count := 0, carryNext := 1 } := by decide

/-! `Sizing` and `ISSUE` (vectors of 2.4). -/

theorem test_Z14 : sizing 512 8 16 7 = 1 := by decide
theorem test_Z19 : sizing 65535 6 4096 0 = 682 := by decide
/-- Vector Z7 and program P2: the carry is copied to offsets 0 to 3 and 12 bytes are asked for. -/
theorem test_Z7 :
    (after (.issue 100 false) carried).map (fun t => (t.out.respSamples, t.xferLen, t.out.xferStart, t.buf))
      = some (2, 12, true, started.buf) := by decide
/-- Vector I4: busy is checked before size. -/
theorem test_I4 : answer (.issue 0 true) State.reset = some .rejXportBusy := by decide

/-! The other operations (vectors of 2.5). -/

theorem test_CFG2 :
    (after (.cfg true) carried).map (fun t => (t.storeTemp, t.carryBytes, t.out.resp)) = some (true, 0, some .ok) := by decide
theorem test_CFG1 : (after (.cfg false) carried).map (fun t => (t.storeTemp, t.carryBytes)) = some (false, 4) := by decide
theorem test_NOP1 : (after .nop started).map (fun t => (t.out.resp, t.phase, t.wrCount)) = some (some .ok, .pending, 0) := by
  decide
theorem test_NOP2_101 : answer .reserved101 reading = some .rejOp := by decide
theorem test_NOP2_110 : answer .reserved110 started = some .rejOp := by decide
theorem test_NOP2_111 : answer .reserved111 carried = some .rejOp := by decide
theorem test_REL1 :
    (after .release reading).map (fun t => (t.phase, t.carryBytes, t.sampleCount, t.out.resp)) = some (.free, 4, 1, some .ok) := by
  decide
theorem test_REL3 : answer .release started = some .rejPhase := by decide
theorem test_idle_event : (after .teIdle started).map (fun t => (t.wrCount, t.protoErr, t.out.resp)) = some (0, false, none) := by
  decide
theorem test_B1 : (after (.byte 0x80) started).map (fun t => (t.buf.byte? 4, t.wrCount)) = some (some 0x80, 1) := by decide
/-- Vector B3: a byte beyond `xferLen` is dropped. -/
theorem test_B3 :
    (after (.byte 0x99) delivered).map (fun t => (t.buf, t.wrCount, t.protoErr)) = some (delivered.buf, 12, true) := by decide
/-- Program P2, second `DONE_OK`. -/
theorem test_doneOk_P2 :
    (after .doneOk delivered).map (fun t => (t.bytesFilled, t.startOffset, t.sampleCount, t.carryBytes, t.carry.first 4))
      = some (16, 0, 2, 4, [0x00, 0x14, 0x40, 0x24]) := by decide
/-- Vector A6 through the operation. -/
theorem test_doneOk_A6 :
    (after .doneOk noX).map (fun t => (t.desync, t.startOffset, t.sampleCount, t.carryBytes)) = some (true, 7, 0, 0) := by decide
theorem test_doneFail :
    (after .doneFail delivered).map (fun t => (t.xferFail, t.bytesFilled, t.sampleCount, t.carryBytes, t.phase))
      = some (true, 0, 0, 0, .complete) := by decide
theorem test_reset_registers :
    (after .reset { delivered with storeTemp := true, protoErr := true }).map
        (fun t => (t.phase, t.storeTemp, t.carryBytes, t.xferLen, t.protoErr))
      = some (.free, false, 0, 0, false) := by decide
/-- 70_reset_and_hazards.md R180: the buffer and the carry store keep their bytes. -/
theorem test_reset_keeps_bytes :
    (after .reset delivered).map (fun t => (t.buf, t.carry.toList)) = some (delivered.buf, delivered.carry.toList) := by decide

/-! The states above meet the invariant. -/

theorem reset_invariant : Invariant State.reset where
  bufWf := by decide
  bufInside := by decide
  filledFits := by decide
  published := ⟨false, by decide⟩
  carryEq := by decide
  carryLt := by decide
  pendingXfer := by decide
  wrLe := by decide
  xferFits := by decide
  startEven := by decide
  failZero := by decide
  desyncZero := by decide
  written := by decide
  carryTied := by decide

theorem reading_invariant : Invariant reading where
  bufWf := by decide
  bufInside := by decide
  filledFits := by decide
  published := ⟨false, by decide⟩
  carryEq := by decide
  carryLt := by decide
  pendingXfer := by decide
  wrLe := by decide
  xferFits := by decide
  startEven := by decide
  failZero := by decide
  desyncZero := by decide
  written := by decide
  carryTied := by decide

theorem delivered_invariant : Invariant delivered where
  bufWf := by decide
  bufInside := by decide
  filledFits := by decide
  published := ⟨false, by decide⟩
  carryEq := by decide
  carryLt := by decide
  pendingXfer := by decide
  wrLe := by decide
  xferFits := by decide
  startEven := by decide
  failZero := by decide
  desyncZero := by decide
  written := by decide
  carryTied := by decide

theorem noX_invariant : Invariant noX where
  bufWf := by decide
  bufInside := by decide
  filledFits := by decide
  published := ⟨false, by decide⟩
  carryEq := by decide
  carryLt := by decide
  pendingXfer := by decide
  wrLe := by decide
  xferFits := by decide
  startEven := by decide
  failZero := by decide
  desyncZero := by decide
  written := by decide
  carryTied := by decide

/-! Witnesses: for each statement with hypotheses, a concrete input that meets them all. -/

theorem witness_DecodeOfEncodeGivesTheOperation :
    (Instr.issue 65535 true).wellFormed Config.resetParams = true ∧ (Instr.get 31 .t).wellFormed Config.resetParams = true := by
  decide

theorem witness_EncodeOfDecodeGivesTheUsedPorts :
    decode (.host { cmdOp := 0b100, pendingUnits := 7, getAxis := 3 }) = .ok .release ∧
    decode (.transport { tev := 0b10, inData := 0xFF }) = .ok .doneOk := by decide

/-- One record of each tag, at both ends of the value range. -/
theorem witness_RecordWordIsTagThenValueBits :
    ((0x0000#16).toNat / 16384 = 0 ∧ (0#14).toNat = (0x0000#16).toNat % 16384) ∧
    ((0x7FFF#16).toNat / 16384 = 1 ∧ (0x3FFF#14).toNat = (0x7FFF#16).toNat % 16384) ∧
    ((0x8000#16).toNat / 16384 = 2 ∧ (0#14).toNat = (0x8000#16).toNat % 16384) ∧
    ((0xFFFF#16).toNat / 16384 = 3 ∧ (0x3FFF#14).toNat = (0xFFFF#16).toNat % 16384) := by decide

theorem witness_EachWordMatchesOneRow :
    decode (.transport { tev := 0b01 }) = .ok (.byte 0) ∧
    Instr.doneFail.row.format = (PortWord.transport { tev := 0b01 }).format := by decide

theorem witness_StepRunsTheDecodedOperation :
    ({ started with inputs := [.transport { tev := 0b01, inData := 0x80 }, .host { cmdOp := 0 }] } : State).inputs
      = .transport { tev := 0b01, inData := 0x80 } :: [.host { cmdOp := 0 }] ∧
    decode (.transport { tev := 0b01, inData := 0x80 }) = .ok (.byte 0x80) := by decide

theorem witness_StepWithNothingPresentedIsNop : State.reset.inputs = [] := by decide

/-- `DONE_OK` and `RELEASE` in one clock: the step of the event answers a next state. -/
theorem witness_EventThenCommandInOneClock :
    delivered.inputs = [] ∧ ({ host := { cmdOp := 0b100 }, transport := { tev := 0b10 } } : Clock).rst = 0 ∧
    decode (.transport { tev := 0b10 }) = .ok .doneOk ∧ decode (.host { cmdOp := 0b100 }) = .ok .release ∧
    ∃ t, step (delivered.presentClock { host := { cmdOp := 0b100 }, transport := { tev := 0b10 } }) = .next t :=
  ⟨rfl, rfl, rfl, rfl, _, rfl⟩

/-- Both clauses: `RELEASE` beside an idle event, and `DONE_OK` beside `NOP`. -/
theorem witness_ClockOfOneLabelIsOneStep :
    (reading.inputs = [] ∧ ({ host := { cmdOp := 0b100 } } : Clock).rst = 0 ∧
      ({ host := { cmdOp := 0b100 } } : Clock).transport.tev = 0 ∧ decode (.host { cmdOp := 0b100 }) = .ok .release) ∧
    (delivered.inputs = [] ∧ ({ transport := { tev := 0b10 } } : Clock).rst = 0 ∧ (0b10 : BitVec 2) ≠ 0 ∧
      ({ transport := { tev := 0b10 } } : Clock).host.cmdOp = 0 ∧ decode (.transport { tev := 0b10 }) = .ok .doneOk) := by
  decide

theorem witness_ResetSetsEveryRegister :
    ({ rst := 1, host := { cmdOp := 0b010 }, transport := { tev := 0b01 } } : Clock).rst = 1 ∧ delivered.inputs = [] ∧
    ∃ t, exec .reset delivered = .next t :=
  ⟨rfl, rfl, _, rfl⟩

theorem witness_EncodeGivesTagAndLowBits : (-8192 : Int) ≤ -8192 ∧ (-8192 : Int) ≤ 8191 ∧ (8191 : Int) ≤ 8191 := by decide

theorem witness_CodecRoundTripsAndRange :
    ((-8192 : Int) ≤ 8191 ∧ (8191 : Int) ≤ 8191) ∧ decode (.record ((0xA0#8) ++ (0x00#8))) = .ok (.recZ 0x2000) := by decide

theorem witness_RecordRowsAnswerTagAndValue :
    (Instr.recX 0x1FFF = .recX 0x1FFF ∧ (0 : Tag) = 0b00) ∧ (Instr.recY 0x2000 = .recY 0x2000 ∧ (1 : Tag) = 0b01) ∧
    (Instr.recZ 0x3FFF = .recZ 0x3FFF ∧ (2 : Tag) = 0b10) ∧ (Instr.recT 0 = .recT 0 ∧ (3 : Tag) = 0b11) := by decide

/-- A fill with an X record at offset 2, one without, and one whose last record has no second byte. -/
theorem witness_LoFirstExchangesTheBytes :
    loFirstParams.recOrder = .loFirst ∧
    findStart loFirstParams (Memory.ofBytes 0 [0x20, 0x40, 0x10, 0x00]) 4 = .ok (2, true) ∧
    findStart loFirstParams (Memory.ofBytes 0 [0x20, 0x40]) 2 = .ok (2, false) ∧
    findStart loFirstParams (Memory.ofBytes 0 [0x20, 0x40, 0x10]) 3 = .ok (3, false) := by decide

theorem witness_RecPseudoOperationDeliversTheRecord :
    (-8192 : Int) ≤ -8192 ∧ (-8192 : Int) ≤ 8191 ∧ ({ started with wrCount := 10 } : State).phase = .pending ∧
    ({ started with wrCount := 10 } : State).wrCount + 2 ≤ started.xferLen ∧
    started.carryBytes + started.xferLen ≤ started.params.capacity := by decide

/-- One input for each clause; the last reads the last record of the last sample. -/
theorem witness_GetAnswersTheDecodedRecord :
    (started.phase ≠ .complete) ∧
    (reading.phase = .complete ∧ reading.sampleCount ≤ 1) ∧
    (reading.phase = .complete ∧ 0 < reading.sampleCount ∧ reading.storeTemp = false) ∧
    (reading.phase = .complete ∧ 0 < reading.sampleCount ∧ (Axis.z = .t → reading.storeTemp = true) ∧
      6 = reading.startOffset + (if reading.storeTemp then 8 else 6) * 0 + 2 * Axis.z.code.toNat ∧
      6 + 1 < reading.params.capacity ∧ reading.buf.byte? 6 = some 0x80 ∧ reading.buf.byte? 7 = some 0x31) := by decide

/-- A `GET` of a T record. -/
def readingT : State :=
  { State.reset with
    storeTemp := true, phase := .complete, sampleCount := 1, bytesFilled := 8, xferLen := 8, wrCount := 8
    buf := Memory.ofBytes 0 [0x00, 0x11, 0x40, 0x21, 0x80, 0x31, 0xC0, 0x41] }

theorem witness_GetAnswersTheDecodedRecord_T :
    readingT.phase = .complete ∧ 0 < readingT.sampleCount ∧ readingT.storeTemp = true ∧
    6 = readingT.startOffset + (if readingT.storeTemp then 8 else 6) * 0 + 2 * Axis.t.code.toNat ∧
    readingT.buf.byte? 6 = some 0xC0 ∧ readingT.buf.byte? 7 = some 0x41 := by decide

theorem witness_LegalGetStaysInsideTheSets :
    Invariant reading ∧ reading.phase = .complete ∧ 0 < reading.sampleCount ∧ axisPresent reading.storeTemp .z = true :=
  ⟨reading_invariant, by decide, by decide, by decide⟩

theorem witness_LegalGetIsAnswered :
    Invariant reading ∧ reading.phase = .complete ∧ 0 < reading.sampleCount ∧ (Axis.x = .t → reading.storeTemp = true) :=
  ⟨reading_invariant, by decide, by decide, by decide⟩

theorem witness_GetIsRepeatable :
    ∃ t, runAll ([(0, Axis.z), (1, Axis.x)].map (fun g => Instr.get g.1 g.2)) reading = some t := ⟨_, rfl⟩

/-- Found at offset 2; not found in an odd fill; two buffers with the same tags. -/
theorem witness_FindStartProperties :
    Config.resetParams.recOrder = .hiFirst ∧
    findStart Config.resetParams (Memory.ofBytes 0 [0x40, 0x00, 0x00]) 3 = .ok (2, true) ∧
    findStart Config.resetParams noX.buf 7 = .ok (7, false) ∧
    (0 < 3 ∧ ((Memory.ofBytes 0 [0x3F, 0xFF, 0x40]).byte? 0).map byteTag = some 0) ∧
    ∀ off, off < 3 → 2 ∣ off →
      ((Memory.ofBytes 0 [0x40, 0x99, 0x00]).byte? off).map byteTag = ((Memory.ofBytes 0 [0x7F, 0x00, 0x3F]).byte? off).map byteTag := by
  decide

theorem witness_FindStartCompletesOnAWrittenFill :
    16 ≤ delivered.params.capacity ∧
    ∀ off, off < 16 → tagOffset delivered.params.recOrder off < 16 →
      (delivered.buf.byte? (tagOffset delivered.params.recOrder off)).isSome := by decide

theorem witness_RealignProperties :
    findStart Config.resetParams noX.buf 7 = .ok (7, false) ∧ findStart Config.resetParams reading.buf 12 = .ok (2, true) := by
  decide

theorem witness_CfgWritesStoreTempInFree : started.phase ≠ .free ∧ carried.phase = .free := by decide

/-- One input for each clause; 2 units are one short of a set, 3 units are one set. -/
theorem witness_IssueSizesAndStartsTheTransfer :
    reading.phase ≠ .free ∧ carried.phase = .free ∧
    min (2 * 2 / 6) ((carried.params.capacity - carried.carryBytes) / 6) < 1 ∧
    1 ≤ min (3 * 2 / 6) ((carried.params.capacity - carried.carryBytes) / 6) := by decide

theorem witness_ReleaseFreesTheBuffer : carried.phase ≠ .complete ∧ reading.phase = .complete := by decide

/-- An accepted byte (the last of its transfer), a byte beyond the transfer, a byte outside `Pending`. -/
theorem witness_ByteIsStoredAtTheWriteOffset :
    (({ started with wrCount := 11 } : State).phase = .pending ∧ 11 < started.xferLen ∧
      started.carryBytes + 11 < started.params.capacity) ∧
    ¬(delivered.phase = .pending ∧ delivered.wrCount < delivered.xferLen) ∧
    ¬(carried.phase = .pending ∧ carried.wrCount < carried.xferLen) := by decide

theorem witness_DoneOkPublishesTheRealignment :
    reading.phase ≠ .pending ∧ delivered.phase = .pending ∧ delivered.wrCount + delivered.carryBytes ≤ delivered.params.capacity ∧
    findStart delivered.params delivered.buf (delivered.wrCount + delivered.carryBytes) = .ok (0, true) ∧
    ∀ a, a < 16 → 12 ≤ a → (delivered.buf.byte? a).isSome := by decide

theorem witness_DoneOkCompletesInPending : Invariant delivered ∧ delivered.phase = .pending :=
  ⟨delivered_invariant, by decide⟩

theorem witness_DoneFailPublishesTheFailure : delivered.phase = .pending ∧ reading.phase ≠ .pending := by decide

theorem witness_RefusedEventOnlySetsProtoErr :
    reading.phase ≠ .pending ∧ carried.phase ≠ .pending ∧ delivered.wrCount = delivered.xferLen := by decide

/-- Every row of the phase table has a step. -/
theorem witness_PhaseMachineTable :
    (after .nop started).isSome ∧ (after (.cfg true) carried).isSome ∧ (after (.cfg true) started).isSome ∧
    (after (.issue 6 false) carried).isSome ∧ (after (.issue 6 true) carried).isSome ∧ (after (.issue 6 false) reading).isSome ∧
    (after (.get 0 .x) reading).isSome ∧ (after (.get 0 .x) started).isSome ∧ (after .release reading).isSome ∧
    (after .release carried).isSome ∧ (after .reserved110 reading).isSome ∧ (after (.byte 0x80) started).isSome ∧
    (after (.byte 0x99) delivered).isSome ∧ (after (.byte 0x55) reading).isSome ∧ (after .doneOk delivered).isSome ∧
    (after .doneFail delivered).isSome ∧ (after .doneOk carried).isSome := by decide

/-- The four changes of phase. -/
theorem witness_PhaseChangesOnlyAlongTheCycle :
    (∃ t, exec (.issue 6 false) carried = .next t ∧ t.phase ≠ carried.phase) ∧
    (∃ t, exec .doneOk delivered = .next t ∧ t.phase ≠ delivered.phase) ∧
    (∃ t, exec .release reading = .next t ∧ t.phase ≠ reading.phase) ∧
    (∃ t, exec .reset reading = .next t ∧ t.phase ≠ reading.phase) :=
  ⟨⟨_, rfl, by decide⟩, ⟨_, rfl, by decide⟩, ⟨_, rfl, by decide⟩, ⟨_, rfl, by decide⟩⟩

theorem witness_ExactlyHostCommandsAreAnswered :
    ∃ t, exec (.issue 6 false) carried = .next t ∧ t.out.respSamples ≠ 0 := ⟨_, rfl, by decide⟩

theorem witness_EveryRefusalHasItsCauseAndNoEffect :
    (∃ t, exec (.issue 2 false) carried = .next t ∧ t.out.resp = some .notReady) ∧
    (∃ t, exec (.cfg true) started = .next t ∧ t.out.resp = some .rejPhase) ∧
    (∃ t, exec (.issue 0 true) carried = .next t ∧ t.out.resp = some .rejXportBusy) ∧
    (∃ t, exec (.get 1 .t) reading = .next t ∧ t.out.resp = some .rejArg) ∧
    (∃ t, exec .reserved111 started = .next t ∧ t.out.resp = some .rejOp) :=
  ⟨⟨_, rfl, rfl⟩, ⟨_, rfl, rfl⟩, ⟨_, rfl, rfl⟩, ⟨_, rfl, rfl⟩, ⟨_, rfl, rfl⟩⟩

theorem witness_CompleteLevelRisesAndFalls :
    (∃ t, exec .doneFail delivered = .next t ∧ delivered.completePort = 0 ∧ t.completePort = 1) ∧
    (∃ t, exec .release reading = .next t ∧ reading.completePort = 1 ∧ t.completePort = 0) ∧
    (∃ t, exec .reset reading = .next t ∧ reading.completePort = 1 ∧ t.completePort = 0) :=
  ⟨⟨_, rfl, by decide, by decide⟩, ⟨_, rfl, by decide, by decide⟩, ⟨_, rfl, by decide, by decide⟩⟩

theorem witness_TransferAnnouncedOnlyByAcceptedIssue :
    ∃ t, exec (.issue 100 false) carried = .next t ∧ t.out.xferStart = true := ⟨_, rfl, by decide⟩

theorem witness_BufferWrittenOnlyByItsOwner :
    (∃ t, exec (.issue 6 false) carried = .next t ∧ t.buf.byte? 1 ≠ carried.buf.byte? 1) ∧
    (∃ t, exec (.byte 0x55) started = .next t ∧ t.buf.byte? 4 ≠ started.buf.byte? 4) :=
  ⟨⟨_, rfl, by decide⟩, ⟨_, rfl, by decide⟩⟩

theorem witness_CarryChangesOnlyAsListed :
    (∃ t, exec .doneOk delivered = .next t ∧ t.carry ≠ delivered.carry) ∧
    (∃ t, exec .doneFail delivered = .next t ∧ t.carryBytes ≠ delivered.carryBytes) ∧
    (∃ t, exec (.cfg true) carried = .next t ∧ t.carryBytes ≠ carried.carryBytes) ∧
    (∃ t, exec .reset carried = .next t ∧ t.carryBytes ≠ carried.carryBytes) :=
  ⟨⟨_, rfl, by decide⟩, ⟨_, rfl, by decide⟩, ⟨_, rfl, by decide⟩, ⟨_, rfl, by decide⟩⟩

theorem witness_ResultsChangeOnlyAtCompletion :
    (∃ t, exec (.byte 0x80) started = .next t) ∧
    ¬((Instr.byte 0x80 = .doneOk ∨ Instr.byte 0x80 = .doneFail) ∧ started.phase = .pending) ∧ Instr.byte 0x80 ≠ .reset :=
  ⟨⟨_, rfl⟩, by decide, by decide⟩

theorem witness_ProtoErrIsSticky :
    (∃ t, exec (.byte 0x99) delivered = .next t ∧ breaksContract (.byte 0x99) delivered) ∧
    (∃ t, exec .doneOk carried = .next t ∧ breaksContract .doneOk carried) :=
  ⟨⟨_, rfl, by simp [breaksContract, delivered, started, carried, reading]⟩,
    ⟨_, rfl, by simp [breaksContract, carried, reading]⟩⟩

theorem witness_ConfigurationIsStable :
    (∃ t, exec (.cfg true) carried = .next t ∧ t.storeTemp ≠ carried.storeTemp) ∧
    (∃ t, exec .reset readingT = .next t ∧ t.storeTemp ≠ readingT.storeTemp) :=
  ⟨⟨_, rfl, by decide⟩, ⟨_, rfl, by decide⟩⟩

theorem witness_CompletionFlagsExclude :
    (∃ t, exec .doneOk noX = .next t ∧ noX.phase = .pending ∧ t.desync = true) ∧
    (∃ t, exec .doneFail delivered = .next t ∧ delivered.phase = .pending ∧ t.xferFail = true) :=
  ⟨⟨_, rfl, by decide, by decide⟩, ⟨_, rfl, by decide, by decide⟩⟩

theorem witness_InvariantKeptByEveryStep :
    Invariant State.reset ∧
    Invariant delivered ∧ ∃ t, step (delivered.present [.transport { tev := 0b10 }]) = .next t :=
  ⟨reset_invariant, delivered_invariant, _, rfl⟩

theorem witness_ReachableStatesMeetTheInvariants :
    ∃ s, runAll [.issue 3 false, .byte 0x00, .doneOk] (State.resetWith Config.resetParams) = some s ∧ s.phase = .complete :=
  ⟨_, rfl, rfl⟩

/-- After a `CFG` that changed `storeTemp` the published results still count in sets of the size at their completion. -/
theorem witness_ReachableStatesMeetTheInvariants_stale :
    ∃ s, runAll [.issue 3 false, .byte 0x00, .doneOk, .release, .cfg true] (State.resetWith Config.resetParams) = some s ∧
      s.setSize = 8 ∧
      publishedSetSize [.issue 3 false, .byte 0x00, .doneOk, .release, .cfg true] (State.resetWith Config.resetParams) 0 = 6 :=
  ⟨_, rfl, rfl, rfl⟩

/-- The state of program P2 after its first `DONE_OK` publishes what its buffer holds. -/
theorem witness_PublishedResultsStayTrueOfTheBuffer :
    PublishedMatchBuffer reading ∧ reading.phase = .complete ∧ reading.xferFail = false ∧ ∃ t, step reading = .next t :=
  ⟨fun _ _ => ⟨true, by decide⟩, by decide, by decide, _, rfl⟩

theorem witness_NoLabelEverFaults : Invariant noX ∧ Invariant reading := ⟨noX_invariant, reading_invariant⟩

theorem witness_RegistersFitTheirWidths : Invariant delivered := delivered_invariant

theorem witness_FillNeverExceedsCapacity :
    carried.phase = .free ∧
    ∃ u t, exec (.issue 65535 false) carried = .next u ∧ u.out.resp = some .ok ∧
      (∀ e ∈ [Instr.byte 0x80, .byte 0x32], ∃ d, e = .byte d) ∧
      runAll ([Instr.byte 0x80, .byte 0x32] ++ [.doneOk]) u = some t :=
  ⟨rfl, _, _, rfl, rfl, by simp, rfl⟩

theorem witness_DesyncIsReportedAndRecovers :
    Invariant noX ∧ noX.phase = .pending ∧ noX.params.recOrder = .hiFirst ∧ 0 < noX.carryBytes + noX.wrCount ∧
    (∀ off, off < noX.carryBytes + noX.wrCount → 2 ∣ off → (noX.buf.byte? off).map byteTag ≠ some 0) ∧
    noX.setSize ≤ 3 * 2 :=
  ⟨noX_invariant, by decide, by decide, by decide, by decide, by decide⟩

theorem witness_SteadyStateKeepsTheCarry :
    Invariant delivered ∧ delivered.phase = .pending ∧ delivered.params.recOrder = .hiFirst ∧
    delivered.wrCount = delivered.xferLen ∧ delivered.xferLen = 2 * delivered.setSize ∧
    (delivered.buf.byte? 0).map byteTag = some 0 :=
  ⟨delivered_invariant, by decide, by decide, by decide, by decide, by decide⟩

/-- Two sets, the stream of which is cut after seven bytes, inside a record (the stream of program P3). -/
theorem witness_SplitStreamIsReadWholeAndOnce :
    Invariant State.reset ∧ State.reset.phase = .free ∧ State.reset.carryBytes = 0 ∧ State.reset.params.recOrder = .hiFirst ∧
    SampleStream State.reset.storeTemp 2 [0x00, 0x10, 0x40, 0x20, 0x80, 0x30, 0x3F, 0xFE, 0x40, 0x21, 0x80, 0x31] ∧
    1 ≤ State.reset.requestedSamples 6 ∧ 7 ≤ State.reset.requestedSamples 6 * State.reset.setSize ∧
    1 ≤ sizing 3 State.reset.setSize State.reset.params.capacity (7 % State.reset.setSize) ∧
    12 - 7 ≤ sizing 3 State.reset.setSize State.reset.params.capacity (7 % State.reset.setSize) * State.reset.setSize := by
  refine ⟨reset_invariant, by decide, by decide, by decide, ⟨by decide, ?_⟩, by decide, by decide, by decide, by decide⟩
  intro i axis hi hp
  interval_cases i <;> cases axis <;> first | rfl | exact absurd hp (by decide)

/-- Two states that differ in an undelivered byte of the buffer and in a carry register beyond the carry. -/
theorem witness_UnreadBytesAreNeverSeen :
    ∃ s2, Invariant reading ∧ Invariant s2 ∧ s2 ≠ reading ∧ SameButUnreadBytes reading s2 ∧ ∃ t, step reading = .next t := by
  refine ⟨{ reading with
      buf := Memory.ofBytes 0 [0xBF, 0xFF, 0x00, 0x11, 0x40, 0x21, 0x80, 0x31, 0x00, 0x12, 0x40, 0x22, 0x77]
      carry := #v[0x00, 0x12, 0x40, 0x22, 0x99, 0, 0] }, reading_invariant, ?_, ?_, ⟨rfl, by decide, by decide⟩, _, rfl⟩
  · exact {
      bufWf := by decide, bufInside := by decide, filledFits := by decide, published := ⟨false, by decide⟩
      carryEq := by decide, carryLt := by decide, pendingXfer := by decide, wrLe := by decide, xferFits := by decide
      startEven := by decide, failZero := by decide, desyncZero := by decide, written := by decide
      carryTied := by decide }
  · intro h
    have := congrArg State.buf h
    revert this
    decide

end Sys2Proof.Tests
end

section
/-! PROOFS. The width of the offset and count registers (00_scope.md R6) and the ranges that let them fit it. -/

namespace Sys2Proof

/-- `ADDR_W` bits hold `CAPACITY` (00_scope.md R6). -/
theorem Config.capacity_lt_two_pow_addrWidth (c : Nat) : c < 2 ^ Config.addrWidth c := Nat.lt_log2_self

/-- No narrower width holds `CAPACITY`. -/
theorem Config.two_pow_addrWidth_pred_le {c : Nat} (hc : c ≠ 0) : 2 ^ (Config.addrWidth c - 1) ≤ c :=
  Nat.log2_self_le hc

/-- The model's `ADDR_W` is the formula of 00_scope.md R6: `CAPACITY + 1` lies above `2 ^ (ADDR_W - 1)` and not above
`2 ^ ADDR_W`. -/
theorem Config.addrWidth_eq_clog {c : Nat} (hc : c ≠ 0) : Config.addrWidth c = Nat.clog 2 (c + 1) := by
  apply le_antisymm
  · have hpred : addrWidth c - 1 < Nat.clog 2 (c + 1) :=
      (Nat.lt_clog_iff_pow_lt Nat.one_lt_two).2 (Nat.lt_succ_of_le (two_pow_addrWidth_pred_le hc))
    omega
  · exact Nat.clog_le_of_le_pow (capacity_lt_two_pow_addrWidth c)

namespace Machine

theorem six_le_setSize (st : Bool) : 6 ≤ setSize st := by
  rcases setSize_cases st with ⟨h, -⟩ | ⟨h, -⟩ <;> omega

/-- 10_state.md R33 (a) without the set size: a published sample is at least three records long. -/
theorem Invariant.samples_le_bytesFilled {s : State} (h : Invariant s) :
    s.startOffset + s.sampleCount * 6 ≤ s.bytesFilled := by
  obtain ⟨st, hst⟩ := h.published
  calc s.startOffset + s.sampleCount * 6
      ≤ s.startOffset + s.sampleCount * setSize st :=
        Nat.add_le_add_left (Nat.mul_le_mul_left _ (six_le_setSize st)) _
    _ ≤ s.bytesFilled := hst

end Machine

open Machine

/-- Settles O54: `CAPACITY` lies between consecutive powers of two, and each register is bounded by `bytesFilled` or
`xferLen`, which the invariant keeps within `CAPACITY`. -/
theorem registersFitTheirWidths : Obligations.RegistersFitTheirWidths := by
  refine ⟨fun p => ?width, fun s h => ?registers⟩
  case width =>
    have hc : p.capacity ≠ 0 := by have := p.capacity_ge; omega
    exact ⟨Config.addrWidth_eq_clog hc, Config.capacity_lt_two_pow_addrWidth _⟩
  case registers =>
    have hsamples := h.samples_le_bytesFilled
    have hfilled := h.filledFits
    exact ⟨by omega, hfilled, h.xferFits, h.wrLe.trans h.xferFits, by omega⟩

end Sys2Proof
end

section
/-! PROOFS. What a label can do to the registers, said once (10_state.md R20 to R35), and what follows for the phase, the
carry, the published results, the configuration and `protoErr`. -/

namespace Sys2Proof.Machine

/-- The labels that can leave every register as it was: the records, the host commands (each of them when it is refused;
`NOP`, `GET` and the reserved opcodes always) and the idle event. -/
def mayOnlyAnswer : Instr → Bool
  | .byte _ => false
  | .doneOk => false
  | .doneFail => false
  | .reset => false
  | _ => true

theorem not_breaksContract_of_mayOnlyAnswer {i : Instr} (h : mayOnlyAnswer i = true) (s : State) :
    ¬ breaksContract i s := by
  cases i <;> simp_all [mayOnlyAnswer, breaksContract]

theorem ne_reset_of_mayOnlyAnswer {i : Instr} (h : mayOnlyAnswer i = true) : i ≠ .reset := by
  rintro rfl
  cases h

/-- The registers of 10_state.md R35 at their reset values; the buffer and the carry store as they were
(70_reset_and_hazards.md R180). -/
def State.cleared (s : State) : State :=
  { s with
    phase := .free, storeTemp := false, carryBytes := 0, startOffset := 0, sampleCount := 0, bytesFilled := 0,
    xferLen := 0, wrCount := 0, desync := false, xferFail := false, protoErr := false }

theorem resetWith_cleared (p : Params) : (State.resetWith p).cleared = State.resetWith p := rfl

/-- `Effect s i r u`: from `s` the label `i` can answer `r` and leave the registers of `u`. One constructor for each way a
label can change the registers (42_realigner.md R120), one for a breach of the transport's contract (R130) and one for
every label that only answers. -/
inductive Effect (s : State) : Instr → Option Resp → State → Prop
  | unchanged {i r} (hi : mayOnlyAnswer i = true) : Effect s i r s
  | breach {i} (hi : breaksContract i s) : Effect s i none { s with protoErr := true }
  | cfg (st : Bool) (hp : s.phase = .free) :
      Effect s (.cfg st) (some .ok)
        { s with storeTemp := st, carryBytes := if st = s.storeTemp then s.carryBytes else 0 }
  | issue (units : Nat) (m : Memory) (hp : s.phase = .free) (hn : 1 ≤ s.requestedSamples units)
      (hm : storeBytes s.params s.buf 0 (s.carry.first s.carryBytes) = .ok m) :
      Effect s (.issue units false) (some .ok)
        { s with buf := m, xferLen := s.requestedSamples units * s.setSize, wrCount := 0, phase := .pending }
  | release (hp : s.phase = .complete) : Effect s .release (some .ok) { s with phase := .free }
  | byte (d : Byte) (hp : s.phase = .pending) (hw : s.wrCount < s.xferLen)
      (hc : s.writeOffset < s.params.capacity) :
      Effect s (.byte d) none { s with buf := s.buf.put s.writeOffset d, wrCount := s.wrCount + 1 }
  | doneOk (r : Realigned) (tail : List Byte) (hp : s.phase = .pending)
      (hr : realign s.params s.buf (s.wrCount + s.carryBytes) s.setSize = .ok r)
      (ht : loadBytes s.params s.buf (r.start + r.count * s.setSize) r.carryNext = .ok tail) :
      Effect s .doneOk none (publish (s.wrCount + s.carryBytes) r tail s)
  | doneFail (hp : s.phase = .pending) :
      Effect s .doneFail none
        { s with
          desync := false, xferFail := true, bytesFilled := 0, startOffset := 0, sampleCount := 0, carryBytes := 0,
          phase := .complete }
  | reset : Effect s .reset none s.cleared

/-- A step that drives quiet outputs over the registers of an effect. -/
theorem Effect.of_quiet {i : Instr} {s u t : State} {r : Option Resp} (h : Effect s i r u) (ht : t = u.quiet r) :
    ∃ r u o n, Effect s i r u ∧ o.resp = r ∧ t = { u with out := o, freeCount := n } :=
  ⟨r, u, (u.quiet r).out, (u.quiet r).freeCount, h, rfl, ht⟩

/-- Every executed label has one of the listed effects; beside them only the step's own outputs and the counter of free
values change. -/
theorem exec_effect {i : Instr} {s t : State} (h : exec i s = .next t) :
    ∃ r u o n, Effect s i r u ∧ o.resp = r ∧ t = { u with out := o, freeCount := n } := by
  have record : ∀ d, mayOnlyAnswer i = true → Host.Outcome.next (s.answerRecord d) = exec i s →
      ∃ r u o n, Effect s i r u ∧ o.resp = r ∧ t = { u with out := o, freeCount := n } := fun d hi he =>
    ⟨none, s, (s.answerRecord d).out, _, .unchanged hi, rfl, (Host.Outcome.next.inj (he.trans h)).symm⟩
  have answer : ∀ r, mayOnlyAnswer i = true → Host.Outcome.next (s.quiet r) = exec i s →
      ∃ r u o n, Effect s i r u ∧ o.resp = r ∧ t = { u with out := o, freeCount := n } := fun r hi he =>
    (Effect.unchanged hi).of_quiet (Host.Outcome.next.inj (he.trans h)).symm
  cases i with
  | recX v => exact record _ rfl rfl
  | recY v => exact record _ rfl rfl
  | recZ v => exact record _ rfl rfl
  | recT v => exact record _ rfl rfl
  | nop => exact answer _ rfl rfl
  | reserved101 => exact answer _ rfl rfl
  | reserved110 => exact answer _ rfl rfl
  | reserved111 => exact answer _ rfl rfl
  | teIdle => exact answer _ rfl rfl
  | cfg st =>
    obtain ⟨-, ht⟩ | ⟨hp, ht⟩ := execCfg_next h
    · exact (Effect.unchanged rfl).of_quiet ht
    · exact (Effect.cfg st hp).of_quiet ht
  | issue units busy =>
    obtain ⟨-, ht⟩ | ⟨-, -, ht⟩ | ⟨-, -, -, ht⟩ | ⟨hp, rfl, hn, m, hm, ht⟩ := execIssue_next h
    · exact (Effect.unchanged rfl).of_quiet ht
    · exact (Effect.unchanged rfl).of_quiet ht
    · exact (Effect.unchanged rfl).of_quiet ht
    · exact ⟨_, _, t.out, t.freeCount, .issue units m hp hn hm, ht ▸ rfl, ht ▸ rfl⟩
  | get index axis =>
    obtain ⟨-, ht⟩ | ⟨-, -, ht⟩ | ⟨-, -, -, d, -, ht⟩ := execGet_next h
    · exact (Effect.unchanged rfl).of_quiet ht
    · exact (Effect.unchanged rfl).of_quiet ht
    · exact ⟨_, s, (s.respondSample d).out, s.freeCount, .unchanged rfl, rfl, ht⟩
  | release =>
    obtain ⟨-, ht⟩ | ⟨hp, ht⟩ := execRelease_next h
    · exact (Effect.unchanged rfl).of_quiet ht
    · exact (Effect.release hp).of_quiet ht
  | byte d =>
    obtain ⟨hb, ht⟩ | ⟨hp, hw, hc, ht⟩ := execByte_next h
    · exact (Effect.breach (i := .byte d) hb).of_quiet ht
    · exact (Effect.byte d hp hw hc).of_quiet ht
  | doneOk =>
    obtain ⟨hb, ht⟩ | ⟨hp, r, tail, hr, hl, ht⟩ := execDoneOk_next h
    · exact (Effect.breach (i := .doneOk) hb).of_quiet ht
    · exact (Effect.doneOk r tail hp hr hl).of_quiet ht
  | doneFail =>
    obtain ⟨hb, ht⟩ | ⟨hp, ht⟩ := execDoneFail_next h
    · exact (Effect.breach (i := .doneFail) hb).of_quiet ht
    · exact (Effect.doneFail hp).of_quiet ht
  | reset => exact Effect.reset.of_quiet (Host.Outcome.next.inj h).symm

/-- What an effect does to `protoErr` (10_state.md R32): a breach sets it and changes nothing else, reset clears it, and an
accepted label keeps it. -/
theorem Effect.protoErr_cases {i : Instr} {s u : State} {r : Option Resp} (h : Effect s i r u) :
    (breaksContract i s ∧ i ≠ .reset ∧ u = { s with protoErr := true }) ∨
    (i = .reset ∧ u = s.cleared) ∨
    (¬ breaksContract i s ∧ i ≠ .reset ∧ u.protoErr = s.protoErr) := by
  cases h with
  | breach hb => exact .inl ⟨hb, fun hi => by rw [hi] at hb; exact hb, rfl⟩
  | reset => exact .inr (.inl ⟨rfl, rfl⟩)
  | unchanged hi =>
    exact .inr (.inr ⟨not_breaksContract_of_mayOnlyAnswer hi s, ne_reset_of_mayOnlyAnswer hi, rfl⟩)
  | cfg | issue | release => exact .inr (.inr ⟨id, nofun, rfl⟩)
  | byte _ hp hw => exact .inr (.inr ⟨fun hb => hb ⟨hp, hw⟩, nofun, rfl⟩)
  | doneOk _ _ hp | doneFail hp => exact .inr (.inr ⟨fun hb => hb hp, nofun, rfl⟩)

end Sys2Proof.Machine

namespace Sys2Proof

open Machine

/-- Settles O37: of the effects of a label only an accepted `ISSUE`, a completion, an accepted `RELEASE` and the reset
write the phase. -/
theorem phaseChangesOnlyAlongTheCycle : Obligations.PhaseChangesOnlyAlongTheCycle := by
  intro i s t h hne
  obtain ⟨r, u, o, n, he, hresp, rfl⟩ := exec_effect h
  cases he with
  | unchanged | breach | cfg | byte => exact absurd rfl hne
  | issue units _ hp => exact .inl ⟨units, rfl, hp, rfl, hresp⟩
  | doneOk _ _ hp => exact .inr (.inl ⟨.inl rfl, hp, rfl⟩)
  | doneFail hp => exact .inr (.inl ⟨.inr rfl, hp, rfl⟩)
  | release hp => exact .inr (.inr (.inl ⟨rfl, hp, rfl, hresp⟩))
  | reset => exact .inr (.inr (.inr ⟨rfl, rfl⟩))

/-- Settles O44: of the effects of a label only `DONE_OK` writes the carry store, and a `CFG` that keeps `storeTemp` keeps
the carry count. -/
theorem carryChangesOnlyAsListed : Obligations.CarryChangesOnlyAsListed := by
  intro i s t h
  obtain ⟨r, u, o, n, he, -, rfl⟩ := exec_effect h
  cases he with
  | unchanged | breach | issue | release | byte => exact ⟨absurd rfl, absurd rfl⟩
  | cfg st hp =>
    refine ⟨absurd rfl, fun hne => .inr (.inl ?_)⟩
    have hst : st ≠ s.storeTemp := fun hst => hne (if_pos hst)
    exact ⟨by rw [Bool.eq_not.2 hst], hp, if_neg hst⟩
  | doneOk _ _ hp => exact ⟨fun _ => ⟨rfl, hp⟩, fun _ => .inl ⟨.inl rfl, hp⟩⟩
  | doneFail hp => exact ⟨absurd rfl, fun _ => .inl ⟨.inr rfl, hp⟩⟩
  | reset => exact ⟨absurd rfl, fun _ => .inr (.inr ⟨rfl, rfl⟩)⟩

/-- Settles O45: the effects that write the results and the completion flags are the two completions and the reset. -/
theorem resultsChangeOnlyAtCompletion : Obligations.ResultsChangeOnlyAtCompletion := by
  intro i s t h hdone hreset
  obtain ⟨r, u, o, n, he, -, rfl⟩ := exec_effect h
  cases he with
  | unchanged | breach | cfg | issue | release | byte => exact ⟨rfl, rfl, rfl, rfl, rfl⟩
  | doneOk _ _ hp => exact absurd ⟨.inl rfl, hp⟩ hdone
  | doneFail hp => exact absurd ⟨.inr rfl, hp⟩ hdone
  | reset => exact absurd rfl hreset

/-- Settles O46: a label breaches the contract, or resets, or keeps `protoErr`. -/
theorem protoErrIsSticky : Obligations.ProtoErrIsSticky := by
  intro i s t h
  obtain ⟨r, u, o, n, he, -, rfl⟩ := exec_effect h
  obtain ⟨hb, hi, rfl⟩ | ⟨rfl, rfl⟩ | ⟨hb, hi, hkeep⟩ := he.protoErr_cases
  · exact ⟨⟨fun _ => ⟨hi, .inr hb⟩, fun _ => rfl⟩, fun _ => rfl⟩
  · exact ⟨⟨nofun, fun ⟨hi, _⟩ => absurd rfl hi⟩, False.elim⟩
  · exact ⟨by simp [hkeep, hi, hb], fun hb' => absurd hb' hb⟩

/-- Settles O47: the effects that write `storeTemp` are the `CFG` accepted in `Free` and the reset, and none writes the
parameters or the waiting labels. -/
theorem configurationIsStable : Obligations.ConfigurationIsStable := by
  intro i s t h
  obtain ⟨r, u, o, n, he, -, rfl⟩ := exec_effect h
  cases he with
  | unchanged | breach | issue | release | byte | doneOk | doneFail => exact ⟨absurd rfl, rfl, rfl⟩
  | cfg _ hp => exact ⟨fun _ => .inl ⟨rfl, hp⟩, rfl, rfl⟩
  | reset => exact ⟨fun _ => .inr rfl, rfl, rfl⟩

end Sys2Proof
end

section
/-! PROOFS. The invariant of 10_state.md R33: it holds at reset, every effect of a label keeps it, so every step keeps it and
every reachable state meets it; and the codes and values of the registers. -/

namespace Sys2Proof.Machine

/-! The bytes of this cycle, by phase. -/

theorem validBytes_of_pending {s : State} (h : s.phase = .pending) : s.validBytes = s.carryBytes + s.wrCount := by
  simp [State.validBytes, h]

/-- Every carry register exists, and `carryBytes` counts at most all seven. -/
theorem carry_isSome {s : State} {k : Nat} (h : k < s.carryBytes) : (s.carry[k]?).isSome := by
  have hcar := s.carryBytes.isLt
  rw [Vector.getElem?_eq_getElem (by omega)]
  rfl

/-! A fill without an X record. -/

theorem desyncFlag_eq_true_iff {found : Bool} {n : Nat} : desyncFlag found n = true ↔ found = false ∧ 0 < n := by
  simp [desyncFlag]

/-- Without an X record the realignment gives no sample and no carry (41_boundary_detector.md R113, 42_realigner.md
R127). -/
theorem realign_of_not_found {p : Params} {m : Memory} {n size : Nat} {r : Realigned} (hs : 0 < size)
    (h : realign p m n size = .ok r) (hf : r.found = false) : r.start = n ∧ r.count = 0 ∧ r.carryNext = 0 := by
  obtain ⟨hstart, hcount, hcarry, -⟩ := realign_ok hs h
  obtain ⟨hle, hfound, -⟩ := findStart_ok hstart
  have heq : r.start = n := hle.antisymm (not_lt.1 fun hlt => by simp [hfound.2 hlt] at hf)
  simp [hcount, hcarry, heq]

/-! The invariant and each update of the registers. -/

/-- The invariant says nothing of the step's own outputs, the counter of free values and the waiting labels. -/
theorem Invariant.ofRegisters {s : State} (h : Invariant s) (o : Outputs) (n : Nat) (ws : List PortWord) :
    Invariant { s with out := o, freeCount := n, inputs := ws } := { h with }

theorem Invariant.cleared {s : State} (hwf : s.buf.wf) (hin : ∀ c ∈ s.buf, c.1 < s.params.capacity) :
    Invariant s.cleared where
  bufWf := hwf
  bufInside := hin
  filledFits := Nat.zero_le _
  published := ⟨false, by simp [State.cleared]⟩
  carryEq := nofun
  carryLt := State.setSize_pos _
  pendingXfer := nofun
  wrLe := Nat.le_refl 0
  xferFits := Nat.zero_le _
  startEven := .inl (Nat.dvd_zero 2)
  failZero := nofun
  desyncZero := nofun
  written := nofun
  carryTied := .inl rfl

theorem Invariant.protoErr {s : State} (h : Invariant s) : Invariant { s with protoErr := true } := { h with }

/-- A `CFG` that changes `storeTemp` drops the carry, so what the published results say of it stays true
(42_realigner.md R122). -/
theorem Invariant.cfg {s : State} (h : Invariant s) (st : Bool) (hp : s.phase = .free) :
    Invariant { s with storeTemp := st, carryBytes := if st = s.storeTemp then s.carryBytes else 0 } := by
  by_cases hst : st = s.storeTemp
  · subst hst
    simpa only [if_true] using h
  · simp only [if_neg hst]
    have hfree : ∀ {q : Phase}, q ≠ .free → s.phase ≠ q := fun hq hs => hq (hs.symm.trans hp)
    exact { h with
      carryEq := fun hc => absurd hc (hfree nofun)
      carryLt := State.setSize_pos _
      pendingXfer := fun hc => absurd hc (hfree nofun)
      failZero := fun hf => by
        obtain ⟨hfilled, hstart, hcount, -⟩ := h.failZero hf
        exact ⟨hfilled, hstart, hcount, rfl⟩
      desyncZero := fun hd => by
        obtain ⟨hfilled, hstart, hcount, -⟩ := h.desyncZero hd
        exact ⟨hfilled, hstart, hcount, rfl⟩
      written := fun a ha => by simp [State.validBytes, hp] at ha
      carryTied := .inl rfl }

/-- The transfer of an accepted `ISSUE` is whole sets, fits beside the carry (42_realigner.md R121), and finds the carry in
front of it in the buffer (R123). -/
theorem Invariant.issue {s : State} (h : Invariant s) {units : Nat} {m : Memory}
    (hn : 1 ≤ s.requestedSamples units)
    (hm : storeBytes s.params s.buf 0 (s.carry.first s.carryBytes) = .ok m) :
    Invariant
      { s with buf := m, xferLen := s.requestedSamples units * s.setSize, wrCount := 0, phase := .pending } := by
  have hcap : (s.carryBytes : Nat) ≤ s.params.capacity := by
    have := s.params.capacity_ge
    have := s.carryBytes.isLt
    omega
  have hfits : s.carryBytes + s.requestedSamples units * s.setSize ≤ s.params.capacity := sizing_fits hcap
  obtain ⟨-, hwf, hin⟩ := storeBytes_ok hm
  exact { h with
    bufWf := hwf h.bufWf
    bufInside := fun c hc => (hin c hc).elim (h.bufInside c) id
    carryEq := nofun
    pendingXfer := fun _ => ⟨Nat.mul_pos hn s.setSize_pos, Nat.dvd_mul_left _ _, hfits⟩
    wrLe := Nat.zero_le _
    xferFits := Nat.le_of_add_left_le hfits
    written := fun a (ha : a < s.carryBytes) => by
      rw [issue_buffer hm, if_pos ha]
      exact carry_isSome ha }

/-- An accepted `RELEASE` gives up the bytes of the cycle and writes nothing (42_realigner.md R125). -/
theorem Invariant.release {s : State} (h : Invariant s) : Invariant { s with phase := .free } :=
  { h with carryEq := nofun, pendingXfer := nofun, written := nofun }

/-- An accepted `BYTE` lands right behind the bytes of the cycle (42_realigner.md R126). -/
theorem Invariant.byte {s : State} (h : Invariant s) (d : Byte) (hp : s.phase = .pending)
    (hw : s.wrCount < s.xferLen) (hc : s.writeOffset < s.params.capacity) :
    Invariant { s with buf := s.buf.put s.writeOffset d, wrCount := s.wrCount + 1 } :=
  { h with
    bufWf := Memory.wf_put h.bufWf _ _
    bufInside := fun c hmem => by
      obtain rfl | hmem := Memory.mem_put hmem
      · exact hc
      · exact h.bufInside c hmem
    wrLe := hw
    written := fun a ha => by
      have ha : a < s.carryBytes + (s.wrCount + 1) := by simpa [State.validBytes, hp] using ha
      rw [Memory.byte?_put]
      split
      · rfl
      · rename_i hne
        refine h.written a ?_
        rw [validBytes_of_pending hp]
        simp only [State.writeOffset] at hne
        omega }

/-- What `DONE_OK` publishes is a realignment of the fill, which lies within the buffer and was written in this cycle
(42_realigner.md R127, R128). -/
theorem Invariant.publish {s : State} (h : Invariant s) {r : Realigned} (tail : List Byte) (hp : s.phase = .pending)
    (hr : realign s.params s.buf (s.wrCount + s.carryBytes) s.setSize = .ok r) :
    Invariant (publish (s.wrCount + s.carryBytes) r tail s) := by
  obtain ⟨hstart, -, -, hsum⟩ := realign_ok s.setSize_pos hr
  obtain ⟨hle, hfound, heven, -⟩ := findStart_ok hstart
  obtain ⟨hfin, hlt⟩ := realign_carry_fits hr
  obtain ⟨-, -, hcap⟩ := h.pendingXfer hp
  have hwr := h.wrLe
  have htied : r.start + r.count * s.setSize + (Fin.ofNat 8 r.carryNext).val = s.wrCount + s.carryBytes := by
    rw [hfin]
    exact hsum
  exact { h with
    filledFits := show s.wrCount + s.carryBytes ≤ s.params.capacity by omega
    published := ⟨s.storeTemp, Nat.le_of_add_right_le htied.le⟩
    carryEq := fun _ => htied
    carryLt := hfin.symm ▸ hlt
    pendingXfer := nofun
    startEven := heven
    failZero := nofun
    desyncZero := fun hd => by
      obtain ⟨hfound, hfilled⟩ := desyncFlag_eq_true_iff.1 hd
      obtain ⟨hstart, hcount, hcarry⟩ := realign_of_not_found s.setSize_pos hr hfound
      exact ⟨hfilled, hstart, hcount, Fin.ext (hfin.trans hcarry)⟩
    written := fun a ha => h.written a (by rw [validBytes_of_pending hp, Nat.add_comm]; exact ha)
    carryTied := .inr htied }

/-- A failed completion publishes nothing and drops the carry (42_realigner.md R129). -/
theorem Invariant.fail {s : State} (h : Invariant s) :
    Invariant
      { s with
        desync := false, xferFail := true, bytesFilled := 0, startOffset := 0, sampleCount := 0, carryBytes := 0,
        phase := .complete } :=
  { h with
    filledFits := Nat.zero_le _
    published := ⟨false, by simp⟩
    carryEq := fun _ => by simp
    carryLt := s.setSize_pos
    pendingXfer := nofun
    startEven := .inl (Nat.dvd_zero 2)
    failZero := fun _ => ⟨rfl, rfl, rfl, rfl⟩
    desyncZero := nofun
    written := nofun
    carryTied := .inl rfl }

/-! Steps and runs. -/

theorem Effect.invariant {i : Instr} {s u : State} {r : Option Resp} (he : Effect s i r u) (h : Invariant s) :
    Invariant u := by
  cases he with
  | unchanged => exact h
  | breach => exact h.protoErr
  | cfg st hp => exact h.cfg st hp
  | issue _ _ _ hn hm => exact h.issue hn hm
  | release => exact h.release
  | byte d hp hw hc => exact h.byte d hp hw hc
  | doneOk _ tail hp hr => exact h.publish tail hp hr
  | doneFail => exact h.fail
  | reset => exact .cleared h.bufWf h.bufInside

/-- Every executed label keeps the invariant. -/
theorem exec_invariant {i : Instr} {s t : State} (h : Invariant s) (hx : exec i s = .next t) : Invariant t := by
  obtain ⟨_, u, o, n, he, -, rfl⟩ := exec_effect hx
  exact (he.invariant h).ofRegisters o n u.inputs

/-- A step that goes on executes some label, with the labels behind it left waiting. -/
theorem step_next {s t : State} (h : step s = .next t) : ∃ i ws, exec i { s with inputs := ws } = .next t := by
  unfold step at h
  split at h
  · exact ⟨.nop, s.inputs, h⟩
  · split at h
    · exact ⟨_, _, h⟩
    · cases h

theorem resetWith_invariant (p : Params) : Invariant (State.resetWith p) := by
  rw [← resetWith_cleared]
  exact .cleared (Memory.wf_reset p) nofun

/-- The published results, counted in sets of `size` bytes, lie within the fill, and in `Complete` that is the current set
size (10_state.md R33 (a)). -/
structure PublishedIn (s : State) (size : Nat) : Prop where
  inside : s.startOffset + s.sampleCount * size ≤ s.bytesFilled
  current : s.phase = .complete → size = s.setSize

/-- The set size in force at the last completion, after one more label: `publishedSetSize` without its recursion. -/
def sizeAfter (i : Instr) (s : State) (size : Nat) : Nat :=
  if (i = .doneOk ∨ i = .doneFail) ∧ s.phase = .pending then s.setSize else size

theorem publishedSetSize_cons {i : Instr} {s t : State} (h : exec i s = .next t) (is : List Instr) (size : Nat) :
    publishedSetSize (i :: is) s size = publishedSetSize is t (sizeAfter i s size) := by
  simp only [publishedSetSize, h, sizeAfter]

theorem runAll_cons {i : Instr} {is : List Instr} {s v : State} (h : runAll (i :: is) s = some v) :
    ∃ t, exec i s = .next t ∧ runAll is t = some v := by
  simp only [runAll] at h
  split at h
  · exact ⟨_, ‹_›, h⟩
  · cases h
  · cases h

/-- A property that every executed label keeps holds after a run. -/
theorem runAll_induction {P : State → Prop} (hstep : ∀ i s t, P s → exec i s = .next t → P t) {is : List Instr}
    {s v : State} (h : P s) (hrun : runAll is s = some v) : P v := by
  induction is generalizing s with
  | nil =>
    cases hrun
    exact h
  | cons i is ih =>
    obtain ⟨t, hx, hrun⟩ := runAll_cons hrun
    exact ih (hstep i s t h hx) hrun

theorem sizeAfter_of_completion {i : Instr} {s : State} (size : Nat) (hi : i = .doneOk ∨ i = .doneFail)
    (hp : s.phase = .pending) : sizeAfter i s size = s.setSize := if_pos ⟨hi, hp⟩

theorem sizeAfter_of_not_completion {i : Instr} {s : State} (size : Nat)
    (h : (i = .doneOk ∨ i = .doneFail) → s.phase ≠ .pending) : sizeAfter i s size = size :=
  if_neg fun hc => h hc.1 hc.2

/-- A completion publishes results counted with the set size in force; every other label keeps the published results, and
`CFG`, which may change the set size, is accepted in `Free` only. -/
theorem exec_publishedIn {i : Instr} {s t : State} {size : Nat} (h : PublishedIn s size) (hx : exec i s = .next t) :
    PublishedIn t (sizeAfter i s size) := by
  obtain ⟨_, u, o, n, he, -, rfl⟩ := exec_effect hx
  suffices PublishedIn u (sizeAfter i s size) from ⟨this.inside, this.current⟩
  cases he with
  | unchanged hi =>
    rw [sizeAfter_of_not_completion size (by rintro (rfl | rfl) <;> cases hi)]
    exact h
  | breach hb =>
    rw [sizeAfter_of_not_completion size (by rintro (rfl | rfl) <;> exact hb)]
    exact ⟨h.inside, h.current⟩
  | byte =>
    rw [sizeAfter_of_not_completion size (by simp)]
    exact ⟨h.inside, h.current⟩
  | issue | release =>
    rw [sizeAfter_of_not_completion size (by simp)]
    exact ⟨h.inside, nofun⟩
  | cfg _ hp =>
    rw [sizeAfter_of_not_completion size (by simp)]
    exact ⟨h.inside, fun hc => nomatch hp.symm.trans hc⟩
  | reset =>
    exact ⟨by simp [State.cleared], nofun⟩
  | doneOk r _ hp hr =>
    rw [sizeAfter_of_completion size (.inl rfl) hp]
    obtain ⟨-, -, -, hsum⟩ := realign_ok s.setSize_pos hr
    exact ⟨Nat.le_of_add_right_le hsum.le, fun _ => rfl⟩
  | doneFail hp =>
    rw [sizeAfter_of_completion size (.inr rfl) hp]
    exact ⟨by simp, fun _ => rfl⟩

theorem runAll_publishedIn {is : List Instr} {s v : State} {size : Nat} (h : PublishedIn s size)
    (hrun : runAll is s = some v) : PublishedIn v (publishedSetSize is s size) := by
  induction is generalizing s size with
  | nil =>
    cases hrun
    exact h
  | cons i is ih =>
    obtain ⟨t, hx, hrun⟩ := runAll_cons hrun
    rw [publishedSetSize_cons hx]
    exact ih (exec_publishedIn h hx) hrun

end Sys2Proof.Machine

namespace Sys2Proof

open Machine

/-- Settles O49: a step executes one label, and each of a label's effects keeps the invariant. -/
theorem invariantKeptByEveryStep : Obligations.InvariantKeptByEveryStep := by
  intro s t h hstep
  obtain ⟨i, ws, hx⟩ := step_next hstep
  exact exec_invariant (h.ofRegisters s.out s.freeCount ws) hx

/-- Settles O50: a state with every register cleared meets the invariant when its buffer is in canonical form. -/
theorem invariantHoldsAtReset : Obligations.InvariantHoldsAtReset :=
  ⟨resetWith_invariant, resetWith_invariant _⟩

/-- Settles O51, by induction on the labels: the invariant gives every clause but the one on the set size in force at the
completion that published, which `PublishedIn` follows along the run. -/
theorem reachableStatesMeetTheInvariants : Obligations.ReachableStatesMeetTheInvariants := by
  intro p labels s hrun
  have h : Invariant s := runAll_induction (fun _ _ _ => exec_invariant) (resetWith_invariant p) hrun
  have hpub : ∀ size, PublishedIn s (publishedSetSize labels (State.resetWith p) size) := fun size =>
    runAll_publishedIn ⟨by simp [State.resetWith], nofun⟩ hrun
  refine ⟨fun size => ⟨(hpub size).inside, (hpub size).current⟩, h.filledFits, fun hc => ?_, ?_, fun hf => ?_,
    h.carryLt, fun hp => ⟨h.wrLe, h.pendingXfer hp⟩, h.startEven⟩
  · have := h.carryEq hc
    omega
  · exact h.carryTied.imp_right fun htied => by omega
  · obtain ⟨hfilled, hstart, hcount, hcarry⟩ := h.failZero hf
    exact ⟨hcarry, hfilled, hstart, hcount⟩

/-- Settles O10: the values are those `State.resetWith` writes, and its buffer lists no byte. -/
theorem resetValuesOfTheRegisters : Obligations.ResetValuesOfTheRegisters := by
  intro p
  exact ⟨rfl, rfl, rfl, rfl, rfl, rfl, rfl, rfl, rfl, rfl, rfl, Memory.byte?_nil⟩

theorem ofBool_eq_one_iff (b : Bool) : BitVec.ofBool b = 1 ↔ b = true := by cases b <;> decide

/-- Settles O40, by cases on the phase and on the response; 3 bits hold every carry count. -/
theorem phaseAndResponseCodes : Obligations.PhaseAndResponseCodes := by
  refine ⟨⟨rfl, rfl, rfl⟩, ⟨rfl, rfl, rfl, rfl, rfl, rfl⟩, fun s => ?phase, fun r => ?resp, fun s => ?ports⟩
  case phase =>
    change s.phase.code ≠ 0b11
    cases s.phase <;> decide
  case resp => cases r <;> decide
  case ports =>
    have hcarry : (BitVec.ofNat 3 s.carryBytes).toNat = s.carryBytes := by
      rw [BitVec.toNat_ofNat]
      exact Nat.mod_eq_of_lt s.carryBytes.isLt
    exact ⟨rfl, (ofBool_eq_one_iff _).trans decide_eq_true_iff, ofBool_eq_one_iff _, hcarry, rfl, rfl, rfl,
      ofBool_eq_one_iff _, ofBool_eq_one_iff _, ofBool_eq_one_iff _, rfl⟩

end Sys2Proof
end

section
/-! PROOFS. What every operation answers in each of its cases, and that none of them stops in a state that meets the
invariant (20_memory.md R60, 60_exceptions.md R150). -/

namespace Sys2Proof.Machine

variable {s : State}

/-! The host commands. -/

theorem execCfg_of_not_free {st : Bool} (hp : s.phase ≠ .free) :
    execCfg st s = .next (s.quiet (some .rejPhase)) := if_pos hp

theorem execCfg_of_free {st : Bool} (hp : s.phase = .free) :
    execCfg st s =
      .next (({ s with
        storeTemp := st, carryBytes := if st = s.storeTemp then s.carryBytes else 0 } : State).quiet (some .ok)) :=
  if_neg (not_not.2 hp)

theorem execIssue_of_not_free {units : Nat} {busy : Bool} (hp : s.phase ≠ .free) :
    execIssue units busy s = .next (s.quiet (some .rejPhase)) := if_pos hp

theorem execIssue_of_busy {units : Nat} (hp : s.phase = .free) :
    execIssue units true s = .next (s.quiet (some .rejXportBusy)) := by
  simp [execIssue, hp]

theorem execIssue_of_too_few {units : Nat} (hp : s.phase = .free) (hn : s.requestedSamples units = 0) :
    execIssue units false s = .next (s.quiet (some .notReady)) := by
  simp [execIssue, hp, hn]

/-- An accepted `ISSUE` starts a transfer: the carry fits in front of it in every legal buffer (42_realigner.md R123). -/
theorem execIssue_of_accepted {units : Nat} (hp : s.phase = .free) (hn : 1 ≤ s.requestedSamples units) :
    ∃ m, storeBytes s.params s.buf 0 (s.carry.first s.carryBytes) = .ok m ∧
      execIssue units false s =
        .next (({ s with
          buf := m, xferLen := s.requestedSamples units * s.setSize, wrCount := 0,
          phase := .pending } : State).respondIssued (s.requestedSamples units)) := by
  obtain ⟨m, hm, hissue⟩ := issueTransfer_eq (s.requestedSamples units) s
  refine ⟨m, hm, Eq.trans ?_ hissue⟩
  simp [execIssue, hp, Nat.ne_of_gt hn]

theorem execRelease_of_not_complete (hp : s.phase ≠ .complete) :
    execRelease s = .next (s.quiet (some .rejPhase)) := if_pos hp

theorem execRelease_of_complete (hp : s.phase = .complete) :
    execRelease s = .next (({ s with phase := .free } : State).quiet (some .ok)) := if_neg (not_not.2 hp)

theorem execGet_of_not_complete {index : Nat} {axis : Axis} (hp : s.phase ≠ .complete) :
    execGet index axis s = .next (s.quiet (some .rejPhase)) := if_pos hp

theorem execGet_of_no_sample {index : Nat} {axis : Axis} (hp : s.phase = .complete)
    (h : s.sampleCount ≤ index ∨ axisPresent s.storeTemp axis = false) :
    execGet index axis s = .next (s.quiet (some .rejArg)) := by
  by_cases hi : s.sampleCount ≤ index
  · simp [execGet, hp, hi]
  · simp [execGet, hp, hi, h.resolve_left hi]

theorem execGet_of_sample {index : Nat} {axis : Axis} {d : Tag × Value} (hp : s.phase = .complete)
    (hi : index < s.sampleCount) (ha : axisPresent s.storeTemp axis = true)
    (hd : loadRecord s.params s.buf (recordOffset s.startOffset s.setSize index axis) = .ok d) :
    execGet index axis s = .next (s.respondSample d) := by
  simp [execGet, hp, Nat.not_le.2 hi, ha, hd]

/-! The transport events. -/

theorem execByte_of_breach {d : Byte} (h : ¬(s.phase = .pending ∧ s.wrCount < s.xferLen)) :
    execByte d s = .next (({ s with protoErr := true } : State).quiet none) := if_neg h

theorem execByte_of_accepted {d : Byte} (hp : s.phase = .pending) (hw : s.wrCount < s.xferLen)
    (hc : s.writeOffset < s.params.capacity) :
    execByte d s =
      .next (({ s with buf := s.buf.put s.writeOffset d, wrCount := s.wrCount + 1 } : State).quiet none) := by
  simp [execByte, hp, hw, storeByte, hc]

theorem execDoneOk_of_breach (hp : s.phase ≠ .pending) :
    execDoneOk s = .next (({ s with protoErr := true } : State).quiet none) := if_pos hp

theorem execDoneOk_of_pending {r : Realigned} {tail : List Byte} (hp : s.phase = .pending)
    (hr : realign s.params s.buf (s.wrCount + s.carryBytes) s.setSize = .ok r)
    (ht : loadBytes s.params s.buf (r.start + r.count * s.setSize) r.carryNext = .ok tail) :
    execDoneOk s = .next ((publish (s.wrCount + s.carryBytes) r tail s).quiet none) := by
  simp [execDoneOk, hp, hr, ht]

theorem execDoneFail_of_breach (hp : s.phase ≠ .pending) :
    execDoneFail s = .next (({ s with protoErr := true } : State).quiet none) := if_pos hp

theorem execDoneFail_of_pending (hp : s.phase = .pending) :
    execDoneFail s =
      .next (({ s with
        desync := false, xferFail := true, bytesFilled := 0, startOffset := 0, sampleCount := 0, carryBytes := 0,
        phase := .complete } : State).quiet none) := if_neg (not_not.2 hp)

/-! The accesses to the buffer stay within the bytes of the cycle. -/

/-- The record of a sample lies within the published sets (40_codec.md R93). -/
theorem recordOffset_add_two_le {st : Bool} {start count index : Nat} {axis : Axis} (hi : index < count)
    (ha : axisPresent st axis = true) :
    recordOffset start (setSize st) index axis + 2 ≤ start + count * setSize st := by
  have haxis := axis_inside ha
  calc recordOffset start (setSize st) index axis + 2
      = start + (setSize st * index + (2 * axis.code.toNat + 2)) := by simp only [recordOffset]; omega
    _ ≤ start + (setSize st * index + setSize st) := by omega
    _ = start + (index + 1) * setSize st := by ring
    _ ≤ start + count * setSize st := Nat.add_le_add_left (Nat.mul_le_mul_right _ hi) _

theorem validBytes_of_complete (hp : s.phase = .complete) : s.validBytes = s.bytesFilled := by
  simp [State.validBytes, hp]

theorem Invariant.record_inside {index : Nat} {axis : Axis} (h : Invariant s) (hp : s.phase = .complete)
    (hi : index < s.sampleCount) (ha : axisPresent s.storeTemp axis = true) :
    recordOffset s.startOffset s.setSize index axis + 2 ≤ s.validBytes := by
  calc recordOffset s.startOffset s.setSize index axis + 2
      ≤ s.startOffset + s.sampleCount * s.setSize := recordOffset_add_two_le hi ha
    _ ≤ s.bytesFilled := Nat.le_of_add_right_le (h.carryEq hp).le
    _ = s.validBytes := (validBytes_of_complete hp).symm

theorem Invariant.validBytes_le (h : Invariant s) : s.validBytes ≤ s.params.capacity := by
  unfold State.validBytes
  split
  · exact Nat.zero_le _
  · next hp =>
    obtain ⟨-, -, hfits⟩ := h.pendingXfer hp
    have := h.wrLe
    omega
  · exact h.filledFits

/-- The bytes of a sample have been written, so a legal `GET` finds its record (20_memory.md R60). -/
theorem Invariant.loadRecord_isOk {index : Nat} {axis : Axis} (h : Invariant s) (hp : s.phase = .complete)
    (hi : index < s.sampleCount) (ha : axisPresent s.storeTemp axis = true) :
    ∃ d, loadRecord s.params s.buf (recordOffset s.startOffset s.setSize index axis) = .ok d := by
  have hin := h.record_inside hp hi ha
  have hcap := h.validBytes_le
  obtain ⟨b0, h0⟩ := Option.isSome_iff_exists.1 (h.written _ (Nat.le_of_succ_le hin))
  obtain ⟨b1, h1⟩ := Option.isSome_iff_exists.1 (h.written _ hin)
  exact ⟨_, loadRecord_ok_iff.2 ⟨hin.trans hcap, b0, b1, h0, h1, rfl⟩⟩

/-- Every byte of the fill has been written, so `DONE_OK` finds the bytes it scans and the tail it keeps
(42_realigner.md R127, R128). -/
theorem Invariant.doneOk_isOk (h : Invariant s) (hp : s.phase = .pending) :
    ∃ r tail, realign s.params s.buf (s.wrCount + s.carryBytes) s.setSize = .ok r ∧
      loadBytes s.params s.buf (r.start + r.count * s.setSize) r.carryNext = .ok tail := by
  have hvalid : s.wrCount + s.carryBytes = s.validBytes := by rw [validBytes_of_pending hp, Nat.add_comm]
  have hcap := h.validBytes_le
  obtain ⟨start, found, hstart⟩ := findStart_isOk hcap h.written
  rw [hvalid]
  have hr := realign_eq (sz := s.setSize) hstart
  obtain ⟨-, -, -, hsum⟩ := realign_ok s.setSize_pos hr
  obtain ⟨tail, ht⟩ := loadBytes_isOk (hsum.trans_le hcap) fun k hk => h.written _ (by omega)
  exact ⟨_, tail, hr, ht⟩

/-- In a state that meets the invariant every label is executed. -/
theorem Invariant.exec_next (h : Invariant s) (i : Instr) : ∃ t, exec i s = .next t := by
  cases i with
  | recX | recY | recZ | recT | nop | reserved101 | reserved110 | reserved111 | teIdle | reset => exact ⟨_, rfl⟩
  | cfg st =>
    by_cases hp : s.phase = .free
    · exact ⟨_, execCfg_of_free hp⟩
    · exact ⟨_, execCfg_of_not_free hp⟩
  | issue units busy =>
    by_cases hp : s.phase = .free
    · cases busy with
      | true => exact ⟨_, execIssue_of_busy hp⟩
      | false =>
        obtain hn | hn := Nat.eq_zero_or_pos (s.requestedSamples units)
        · exact ⟨_, execIssue_of_too_few hp hn⟩
        · obtain ⟨m, -, hx⟩ := execIssue_of_accepted hp hn
          exact ⟨_, hx⟩
    · exact ⟨_, execIssue_of_not_free hp⟩
  | get index axis =>
    by_cases hp : s.phase = .complete
    · by_cases hno : s.sampleCount ≤ index ∨ axisPresent s.storeTemp axis = false
      · exact ⟨_, execGet_of_no_sample hp hno⟩
      · simp only [not_or, Nat.not_le, Bool.not_eq_false] at hno
        obtain ⟨d, hd⟩ := h.loadRecord_isOk hp hno.1 hno.2
        exact ⟨_, execGet_of_sample hp hno.1 hno.2 hd⟩
    · exact ⟨_, execGet_of_not_complete hp⟩
  | release =>
    by_cases hp : s.phase = .complete
    · exact ⟨_, execRelease_of_complete hp⟩
    · exact ⟨_, execRelease_of_not_complete hp⟩
  | byte d =>
    by_cases hacc : s.phase = .pending ∧ s.wrCount < s.xferLen
    · obtain ⟨hp, hw⟩ := hacc
      obtain ⟨-, -, hfits⟩ := h.pendingXfer hp
      exact ⟨_, execByte_of_accepted hp hw (by simp only [State.writeOffset]; omega)⟩
    · exact ⟨_, execByte_of_breach hacc⟩
  | doneOk =>
    by_cases hp : s.phase = .pending
    · obtain ⟨r, tail, hr, ht⟩ := h.doneOk_isOk hp
      exact ⟨_, execDoneOk_of_pending hp hr ht⟩
    · exact ⟨_, execDoneOk_of_breach hp⟩
  | doneFail =>
    by_cases hp : s.phase = .pending
    · exact ⟨_, execDoneFail_of_pending hp⟩
    · exact ⟨_, execDoneFail_of_breach hp⟩

end Sys2Proof.Machine

namespace Sys2Proof

open Machine

/-- Settles O53: each label is executed, since the bytes it reads and the offsets it writes lie in the cycle's bytes or
right behind them, and an executed label keeps the invariant. -/
theorem noLabelEverFaults : Obligations.NoLabelEverFaults := by
  intro i s h
  obtain ⟨t, hx⟩ := h.exec_next i
  exact ⟨t, hx, exec_invariant h hx⟩

end Sys2Proof
end

section
/-! PROOFS. The bytes that no rule lets anyone read (93_implementation_defined.md U1, U2, U8): an update that writes no byte
keeps two states alike, and so do the three that do; every label reads bytes on which such states agree. -/

namespace Sys2Proof.Machine

/-! Reads of memories that agree. -/

theorem loadRecord_congr {p : Params} {m m' : Memory} {off : Nat} (h0 : m'.byte? off = m.byte? off)
    (h1 : m'.byte? (off + 1) = m.byte? (off + 1)) : loadRecord p m' off = loadRecord p m off := by
  simp only [loadRecord, loadByte, h0, h1]

theorem loadBytes_congr {p : Params} {m m' : Memory} {a n : Nat}
    (h : ∀ k, k < n → m'.byte? (a + k) = m.byte? (a + k)) : loadBytes p m' a n = loadBytes p m a n := by
  induction n generalizing a with
  | zero => rfl
  | succ n ih =>
    have hhead : m'.byte? a = m.byte? a := h 0 (Nat.succ_pos n)
    have htail : loadBytes p m' (a + 1) n = loadBytes p m (a + 1) n := ih fun k hk => by
      have := h (k + 1) (Nat.succ_lt_succ hk)
      rwa [show a + (k + 1) = a + 1 + k by omega] at this
    simp only [loadBytes, loadByte, hhead, htail]

/-- The realignment reads nothing outside the fill. -/
theorem realign_congr {p : Params} {m m' : Memory} {n size : Nat}
    (h : ∀ a, a < n → m'.byte? a = m.byte? a) : realign p m' n size = realign p m n size := by
  simp only [realign, findStart_congr h]

/-- The first carry registers are the first of more. -/
theorem CarryStore.take_first (c : CarryStore) {k n : Nat} (h : k ≤ n) : (c.first n).take k = c.first k := by
  simp only [CarryStore.first, List.take_take, Nat.min_eq_left h]

/-! Updates of two states that differ in unread bytes only. -/

namespace SameButUnreadBytes

variable {s t : State}

/-- A function of the registers that reads no byte. -/
theorem register {α : Type} (h : SameButUnreadBytes s t) (g : State → α)
    (hg : ∀ b c, g { s with buf := b, carry := c } = g s) : g t = g s :=
  (congrArg g h.rest).trans (hg _ _)

/-- An update that neither writes nor reads the bytes, and lets nobody read more of them than before. -/
theorem map (h : SameButUnreadBytes s t) (f : State → State)
    (hf : ∀ b c, f { s with buf := b, carry := c } = { f s with buf := b, carry := c })
    (hv : (f s).validBytes ≤ s.validBytes) (hc : (f s).carryBytes ≤ s.carryBytes) :
    SameButUnreadBytes (f s) (f t) := by
  have hs : f s = { f s with buf := s.buf, carry := s.carry } := hf s.buf s.carry
  have ht : f t = { f s with buf := t.buf, carry := t.carry } := (congrArg f h.rest).trans (hf t.buf t.carry)
  constructor
  case rest => rw [ht]
  case buf =>
    intro a ha
    rw [ht, hs]
    exact h.buf a (ha.trans_le hv)
  case carry =>
    have := congrArg (List.take (f s).carryBytes) h.carry
    rw [CarryStore.take_first _ hc, CarryStore.take_first _ hc] at this
    rw [ht, hs]
    exact this

theorem quiet (h : SameButUnreadBytes s t) (r : Option Resp) : SameButUnreadBytes (s.quiet r) (t.quiet r) :=
  h.map (State.quiet · r) (fun _ _ => rfl) le_rfl le_rfl

theorem answerRecord (h : SameButUnreadBytes s t) (d : Tag × Value) :
    SameButUnreadBytes (s.answerRecord d) (t.answerRecord d) :=
  h.map (State.answerRecord · d) (fun _ _ => rfl) le_rfl le_rfl

theorem protoErr (h : SameButUnreadBytes s t) :
    SameButUnreadBytes { s with protoErr := true } { t with protoErr := true } :=
  h.map (fun u => { u with protoErr := true }) (fun _ _ => rfl) le_rfl le_rfl

/-- A `CFG` in `Free` keeps the carry count or drops it. -/
theorem cfg (h : SameButUnreadBytes s t) (st : Bool) (hp : s.phase = .free) :
    SameButUnreadBytes
      { s with storeTemp := st, carryBytes := if st = s.storeTemp then s.carryBytes else 0 }
      { t with storeTemp := st, carryBytes := if st = t.storeTemp then t.carryBytes else 0 } := by
  refine h.map (fun u => { u with storeTemp := st, carryBytes := if st = u.storeTemp then u.carryBytes else 0 })
    (fun _ _ => rfl) (by simp [State.validBytes, hp]) ?_
  dsimp only
  split
  · exact le_rfl
  · exact Fin.zero_le _

theorem release (h : SameButUnreadBytes s t) :
    SameButUnreadBytes { s with phase := .free } { t with phase := .free } :=
  h.map (fun u => { u with phase := .free }) (fun _ _ => rfl) (Nat.zero_le _) le_rfl

theorem fail (h : SameButUnreadBytes s t) :
    SameButUnreadBytes
      { s with
        desync := false, xferFail := true, bytesFilled := 0, startOffset := 0, sampleCount := 0, carryBytes := 0,
        phase := .complete }
      { t with
        desync := false, xferFail := true, bytesFilled := 0, startOffset := 0, sampleCount := 0, carryBytes := 0,
        phase := .complete } :=
  h.map
    (fun u => { u with
      desync := false, xferFail := true, bytesFilled := 0, startOffset := 0, sampleCount := 0, carryBytes := 0,
      phase := .complete })
    (fun _ _ => rfl) (Nat.zero_le _) (Fin.zero_le _)

theorem cleared (h : SameButUnreadBytes s t) : SameButUnreadBytes s.cleared t.cleared :=
  h.map State.cleared (fun _ _ => rfl) (Nat.zero_le _) (Fin.zero_le _)

/-- What an `ISSUE` writes in front of the transfer is the part of the carry store on which the states agree. -/
theorem issue (h : SameButUnreadBytes s t) {m m' : Memory} (n : Nat)
    (hm : storeBytes s.params s.buf 0 (s.carry.first s.carryBytes) = .ok m)
    (hm' : storeBytes t.params t.buf 0 (t.carry.first t.carryBytes) = .ok m') :
    SameButUnreadBytes { s with buf := m, xferLen := n, wrCount := 0, phase := .pending }
      { t with buf := m', xferLen := n, wrCount := 0, phase := .pending } where
  rest := congrArg (fun u : State => { u with buf := m', xferLen := n, wrCount := 0, phase := .pending }) h.rest
  buf := fun a (ha : a < s.carryBytes) => by
    have hcount : t.carryBytes = s.carryBytes := h.register State.carryBytes fun _ _ => rfl
    show m'.byte? a = m.byte? a
    rw [issue_buffer hm', issue_buffer hm, hcount, if_pos ha, if_pos ha, ← CarryStore.getElem?_first t.carry ha,
      ← CarryStore.getElem?_first s.carry ha, h.carry]
  carry := h.carry

/-- A `BYTE` extends the bytes of the cycle by one, the same in both states. -/
theorem byte (h : SameButUnreadBytes s t) (d : Byte) (hp : s.phase = .pending) :
    SameButUnreadBytes { s with buf := s.buf.put s.writeOffset d, wrCount := s.wrCount + 1 }
      { t with buf := t.buf.put t.writeOffset d, wrCount := t.wrCount + 1 } where
  rest := congrArg (fun u : State => { u with buf := t.buf.put t.writeOffset d, wrCount := u.wrCount + 1 }) h.rest
  buf := fun a ha => by
    have hoff : t.writeOffset = s.writeOffset := h.register State.writeOffset fun _ _ => rfl
    have ha : a < s.carryBytes + (s.wrCount + 1) := by simpa [State.validBytes, hp] using ha
    show (t.buf.put t.writeOffset d).byte? a = (s.buf.put s.writeOffset d).byte? a
    rw [hoff, Memory.byte?_put, Memory.byte?_put]
    split
    · rfl
    · rename_i hne
      refine h.buf a ?_
      rw [validBytes_of_pending hp]
      simp only [State.writeOffset] at hne
      omega
  carry := h.carry

/-- A completion publishes the fill, on which the states agree, and loads the same tail into the carry store. -/
theorem publish (h : SameButUnreadBytes s t) {n : Nat} (r : Realigned) {tail : List Byte} (hn : n = s.validBytes)
    (hfit : (Fin.ofNat 8 r.carryNext).val = tail.length) :
    SameButUnreadBytes (publish n r tail s) (publish n r tail t) where
  rest := congrArg (fun u => { Machine.publish n r tail u with carry := t.carry.load tail }) h.rest
  buf := fun a (ha : a < n) => h.buf a (hn ▸ ha)
  carry := by
    have hlen : tail.length ≤ 7 := hfit ▸ Nat.le_of_lt_succ (Fin.isLt _)
    simp only [publish_carry, publish_carryBytes, hfit, CarryStore.first_load _ _ hlen]

end SameButUnreadBytes

/-! Labels and steps. -/

/-- Each label takes the same case at both states: it asks the registers, and the bytes that `GET` and `DONE_OK` read lie
within the bytes of the cycle. -/
theorem exec_sameButUnreadBytes {i : Instr} {s s' t : State} (hinv : Invariant s) (h : SameButUnreadBytes s s')
    (hx : exec i s = .next t) : ∃ t', exec i s' = .next t' ∧ SameButUnreadBytes t t' := by
  -- The two states have the same registers by definition, so a case of `s` is the case of the other.
  obtain ⟨b, c, rfl⟩ : ∃ b c, s' = { s with buf := b, carry := c } := ⟨_, _, h.rest⟩
  cases i with
  | recX | recY | recZ | recT =>
    cases hx
    exact ⟨_, rfl, h.answerRecord _⟩
  | nop | reserved101 | reserved110 | reserved111 | teIdle =>
    cases hx
    exact ⟨_, rfl, h.quiet _⟩
  | cfg st =>
    obtain ⟨hp, rfl⟩ | ⟨hp, rfl⟩ := execCfg_next hx
    · exact ⟨_, execCfg_of_not_free hp, h.quiet _⟩
    · exact ⟨_, execCfg_of_free hp, (h.cfg st hp).quiet _⟩
  | issue units busy =>
    obtain ⟨hp, rfl⟩ | ⟨hp, rfl, rfl⟩ | ⟨hp, rfl, hn, rfl⟩ | ⟨hp, rfl, hn, m, hm, rfl⟩ := execIssue_next hx
    · exact ⟨_, execIssue_of_not_free hp, h.quiet _⟩
    · exact ⟨_, execIssue_of_busy hp, h.quiet _⟩
    · exact ⟨_, execIssue_of_too_few hp hn, h.quiet _⟩
    · obtain ⟨m', hm', hx'⟩ := execIssue_of_accepted (s := { s with buf := b, carry := c }) hp hn
      exact ⟨_, hx', (h.issue _ hm hm').map (State.respondIssued · (s.requestedSamples units)) (fun _ _ => rfl)
        le_rfl le_rfl⟩
  | get index axis =>
    obtain ⟨hp, rfl⟩ | ⟨hp, hno, rfl⟩ | ⟨hp, hi, ha, d, hd, rfl⟩ := execGet_next hx
    · exact ⟨_, execGet_of_not_complete hp, h.quiet _⟩
    · exact ⟨_, execGet_of_no_sample hp hno, h.quiet _⟩
    · have hin := hinv.record_inside hp hi ha
      have hd' : loadRecord s.params b (recordOffset s.startOffset s.setSize index axis) = .ok d :=
        (loadRecord_congr (h.buf _ (Nat.le_of_succ_le hin)) (h.buf _ hin)).trans hd
      exact ⟨_, execGet_of_sample hp hi ha hd',
        h.map (State.respondSample · d) (fun _ _ => rfl) le_rfl le_rfl⟩
  | release =>
    obtain ⟨hp, rfl⟩ | ⟨hp, rfl⟩ := execRelease_next hx
    · exact ⟨_, execRelease_of_not_complete hp, h.quiet _⟩
    · exact ⟨_, execRelease_of_complete hp, h.release.quiet _⟩
  | byte d =>
    obtain ⟨hb, rfl⟩ | ⟨hp, hw, hc, rfl⟩ := execByte_next hx
    · exact ⟨_, execByte_of_breach hb, h.protoErr.quiet _⟩
    · exact ⟨_, execByte_of_accepted hp hw hc, (h.byte d hp).quiet _⟩
  | doneOk =>
    obtain ⟨hp, rfl⟩ | ⟨hp, r, tail, hr, ht, rfl⟩ := execDoneOk_next hx
    · exact ⟨_, execDoneOk_of_breach hp, h.protoErr.quiet _⟩
    · have hvalid : s.wrCount + s.carryBytes = s.validBytes := by rw [validBytes_of_pending hp, Nat.add_comm]
      obtain ⟨-, -, -, hsum⟩ := realign_ok s.setSize_pos hr
      have hr' : realign s.params b (s.wrCount + s.carryBytes) s.setSize = .ok r :=
        (realign_congr fun a ha => h.buf a (hvalid ▸ ha)).trans hr
      have ht' : loadBytes s.params b (r.start + r.count * s.setSize) r.carryNext = .ok tail :=
        (loadBytes_congr fun k hk => h.buf _ (by omega)).trans ht
      have hfit : (Fin.ofNat 8 r.carryNext).val = tail.length :=
        (realign_carry_fits hr).1.trans (loadBytes_ok_iff.1 ht).1.symm
      exact ⟨_, execDoneOk_of_pending hp hr' ht', (h.publish r hvalid hfit).quiet _⟩
  | doneFail =>
    obtain ⟨hp, rfl⟩ | ⟨hp, rfl⟩ := execDoneFail_next hx
    · exact ⟨_, execDoneFail_of_breach hp, h.protoErr.quiet _⟩
    · exact ⟨_, execDoneFail_of_pending hp, h.fail.quiet _⟩
  | reset =>
    cases hx
    exact ⟨_, rfl, h.cleared.quiet _⟩

theorem withInputs_self {s : State} {ws : List PortWord} (h : s.inputs = ws) : { s with inputs := ws } = s := by
  subst h
  rfl

/-- Which label a step executes depends on the waiting labels alone. -/
theorem step_next_of_inputs {s t : State} (h : step s = .next t) :
    ∃ i ws, exec i { s with inputs := ws } = .next t ∧
      ∀ s', s'.inputs = s.inputs → step s' = exec i { s' with inputs := ws } := by
  cases hin : s.inputs with
  | nil =>
    have hnop : ∀ s' : State, s'.inputs = [] → step s' = exec .nop { s' with inputs := [] } := fun s' hs' => by
      rw [withInputs_self hs']
      simp only [step, hs']
    exact ⟨.nop, [], hnop s hin ▸ h, hnop⟩
  | cons w ws =>
    cases hw : decode w with
    | error => simp [step, hin, hw] at h
    | ok i =>
      have hlabel : ∀ s' : State, s'.inputs = w :: ws → step s' = exec i { s' with inputs := ws } := fun s' hs' => by
        simp only [step, hs', hw]
      exact ⟨i, ws, hlabel s hin ▸ h, hlabel⟩

end Sys2Proof.Machine

namespace Sys2Proof

open Machine

/-- Settles O59: the two states wait on the same label, and it reads only bytes on which they agree. -/
theorem unreadBytesAreNeverSeen : Obligations.UnreadBytesAreNeverSeen := by
  intro s1 s2 t1 hinv _ h hstep
  obtain ⟨i, ws, hx, hstep_eq⟩ := step_next_of_inputs hstep
  have hws : SameButUnreadBytes { s1 with inputs := ws } { s2 with inputs := ws } :=
    h.map (fun u => { u with inputs := ws }) (fun _ _ => rfl) le_rfl le_rfl
  obtain ⟨t2, hx2, ht⟩ := exec_sameButUnreadBytes (hinv.ofRegisters s1.out s1.freeCount ws) hws hx
  exact ⟨t2, (hstep_eq s2 (h.register State.inputs fun _ _ => rfl)).trans hx2, ht⟩

end Sys2Proof
end

section
/-! PROOFS. Record order, repeated reads and the owner of the buffer's bytes (20_memory.md R51 to R57). -/

namespace Sys2Proof.Machine

/-- A `GET` is answered `OK` exactly for a present axis of a published sample, with the decoded record. -/
theorem sampleAnswer_eq_some_iff {s : State} {index : Nat} {axis : Axis} {d : Tag × Value} :
    sampleAnswer s index axis = some d ↔
      s.phase = .complete ∧ index < s.sampleCount ∧ axisPresent s.storeTemp axis = true ∧
        loadRecord s.params s.buf (recordOffset s.startOffset s.setSize index axis) = .ok d := by
  constructor
  · intro h
    unfold sampleAnswer at h
    split at h
    · rename_i t hx
      obtain ⟨-, rfl⟩ | ⟨-, -, rfl⟩ | ⟨hp, hi, ha, d', hd, rfl⟩ := execGet_next hx
      · simp at h
      · simp at h
      · obtain rfl : d' = d := by simpa using h
        exact ⟨hp, hi, ha, hd⟩
    · cases h
    · cases h
  · rintro ⟨hp, hi, ha, hd⟩
    have hx : exec (.get index axis) s = .next (s.respondSample d) := execGet_of_sample hp hi ha hd
    simp [sampleAnswer, hx]

/-- The answer depends neither on the outputs of the step before nor on the counter of free values. -/
theorem sampleAnswer_withOut (s : State) (o : Outputs) (n index : Nat) (axis : Axis) :
    sampleAnswer { s with out := o, freeCount := n } index axis = sampleAnswer s index axis :=
  Option.ext fun _ => sampleAnswer_eq_some_iff.trans (sampleAnswer_eq_some_iff (s := s)).symm

/-- A `GET` changes no register and no byte (20_memory.md R54). -/
theorem execGet_frame {s t : State} {index : Nat} {axis : Axis} (h : exec (.get index axis) s = .next t) :
    t = { s with out := t.out, freeCount := t.freeCount } := by
  obtain ⟨-, rfl⟩ | ⟨-, -, rfl⟩ | ⟨-, -, -, d, -, rfl⟩ := execGet_next h <;> rfl

theorem runAll_gets_frame {gets : List (Nat × Axis)} {s t : State}
    (h : runAll (gets.map fun g => Instr.get g.1 g.2) s = some t) :
    t = { s with out := t.out, freeCount := t.freeCount } := by
  induction gets generalizing s with
  | nil =>
    cases h
    rfl
  | cons g gets ih =>
    obtain ⟨u, hx, hrun⟩ := runAll_cons h
    have hu := execGet_frame hx
    have ht := ih hrun
    rw [hu] at ht
    exact ht

end Sys2Proof.Machine

namespace Sys2Proof

open Machine

/-- Settles O15: the codec's halves hold by definition; the detector's are the laws of the scan, with the tag byte of the
record at `off` at `off + 1`. -/
theorem loFirstExchangesTheBytes : Obligations.LoFirstExchangesTheBytes := by
  refine ⟨fun _ _ => rfl, fun _ _ => rfl, fun p m n start found horder h => ?_⟩
  obtain ⟨hle, hfound, -, hx, hpassed⟩ := findStart_ok h
  have htag : ∀ off, tagOffset p.recOrder off = off + 1 := fun off => by rw [horder]; rfl
  have hisX : ∀ off, IsXRecord p m n off ↔ off + 1 < n ∧ (m.byte? (off + 1)).map byteTag = some 0 := fun off => by
    rw [IsXRecord, htag]
    rfl
  refine ⟨fun hf => ?found, fun hf => ?none, fun off heven hlt hin htag0 => ?passed⟩
  case found => exact ⟨(hx hf).1, (hisX start).1 (hx hf).2⟩
  case none => exact hle.antisymm (not_lt.1 fun hlt => by simp [hfound.2 hlt] at hf)
  case passed => exact (hpassed off hlt heven).not_isX ((hisX off).2 ⟨hin, htag0⟩)

/-- Settles O20, by induction on the `GET`s between: none of them changes what the answer is made of. -/
theorem getIsRepeatable : Obligations.GetIsRepeatable := by
  intro s t index axis others hrun
  have ht := runAll_gets_frame hrun
  exact ⟨(congrArg (sampleAnswer · index axis) ht).trans (sampleAnswer_withOut ..), ht⟩

/-- Settles O43: of the effects of a label only an accepted `ISSUE` and an accepted `BYTE` write the buffer. -/
theorem bufferWrittenOnlyByItsOwner : Obligations.BufferWrittenOnlyByItsOwner := by
  intro i s t a hx hne
  obtain ⟨r, u, o, n, he, -, rfl⟩ := exec_effect hx
  cases he with
  | unchanged | breach | cfg | release | doneOk | doneFail | reset => exact absurd rfl hne
  | issue units m hp _ hm =>
    have hread := issue_buffer hm a
    have ha : a < s.carryBytes := by_contra fun ha => hne (hread.trans (if_neg ha))
    exact .inl ⟨units, rfl, hp, ha, hread.trans (if_pos ha)⟩
  | byte d hp hw =>
    have ha : a = s.writeOffset := by_contra fun ha => hne (Memory.byte?_put_other _ d ha)
    exact .inr ⟨d, rfl, hp, hw, ha, ha ▸ Memory.byte?_put_same _ _ d⟩

end Sys2Proof
end

section
/-! PROOFS. The decoder and the encoder (30_encoding.md R70 to R77): what each gives on a record word, on the host's ports and
on the transport's ports, that they are inverse to each other, and that the rows of the opcode table exclude each other. -/

namespace Sys2Proof

/-! Record words: a tag above the value bits (30_encoding.md R70, R71). -/

/-- The record row of an axis, which `REC.X` to `REC.T` spell out. -/
def Instr.record : Axis → Raw14 → Instr
  | .x, v => .recX v
  | .y, v => .recY v
  | .z, v => .recZ v
  | .t, v => .recT v

theorem decodeRecordWord_eq (w : BitVec 16) : decodeRecordWord w = .record (.ofCode (recordTag w)) (recordRaw w) := by
  unfold decodeRecordWord
  cases Axis.ofCode (recordTag w) <;> rfl

theorem encode_record (a : Axis) (v : Raw14) : encode (.record a v) = .record (a.code ++ v) := by
  cases a <;> rfl

@[simp] theorem recordTag_append (t : Tag) (v : Raw14) : recordTag (t ++ v) = t := BitVec.extractLsb'_append_eq_left

@[simp] theorem recordRaw_append (t : Tag) (v : Raw14) : recordRaw (t ++ v) = v := BitVec.extractLsb'_append_eq_right

theorem recordTag_append_recordRaw (w : BitVec 16) : recordTag w ++ recordRaw w = w :=
  BitVec.extractLsb'_append_extractLsb'_eq_extractLsb' rfl |>.trans (BitVec.extractLsb'_eq_self)

theorem recordTag_toNat (w : BitVec 16) : (recordTag w).toNat = w.toNat / 16384 := by
  rw [recordTag, BitVec.extractLsb'_toNat, Nat.shiftRight_eq_div_pow]
  omega

theorem recordRaw_toNat (w : BitVec 16) : (recordRaw w).toNat = w.toNat % 16384 := by
  rw [recordRaw, BitVec.extractLsb'_toNat, Nat.shiftRight_zero]

theorem decode_encode_record (a : Axis) (v : Raw14) : decode (encode (.record a v)) = .ok (.record a v) := by
  simp [encode_record, decode, decodeRecordWord_eq, Machine.Axis.ofCode_code]

theorem encode_decodeRecordWord (w : BitVec 16) : encode (decodeRecordWord w) = .record w := by
  rw [decodeRecordWord_eq, encode_record, Machine.Axis.code_ofCode, recordTag_append_recordRaw]

/-- A word whose top two bits are an axis number is that axis's record. -/
theorem decode_record_of_tag {w : BitVec 16} {v : Raw14} (a : Axis) (hv : v.toNat = w.toNat % 16384)
    (ht : w.toNat / 16384 = a.code.toNat) : decode (.record w) = .ok (.record a v) := by
  have htag : recordTag w = a.code := BitVec.eq_of_toNat_eq ((recordTag_toNat w).trans ht)
  have hraw : recordRaw w = v := BitVec.eq_of_toNat_eq ((recordRaw_toNat w).trans hv.symm)
  rw [decode, decodeRecordWord_eq, htag, hraw, Machine.Axis.ofCode_code]

/-! The ports of the host and of the transport (30_encoding.md R75 to R77). -/

theorem ofBool_decide_eq_one (b : BitVec 1) : BitVec.ofBool (decide (b = 1#1)) = b := by
  revert b
  decide

theorem cmdOp_cases (c : BitVec 3) : c = 0 ∨ c = 1 ∨ c = 2 ∨ c = 3 ∨ c = 4 ∨ c = 5 ∨ c = 6 ∨ c = 7 := by
  revert c
  decide

theorem tev_cases (c : BitVec 2) : c = 0 ∨ c = 1 ∨ c = 2 ∨ c = 3 := by
  revert c
  decide

/-- Each `cmd_op` code is a command, and its operands stand on the ports that the command uses. -/
theorem encode_decodeHost (h : HostPorts) : encode (decodeHost h) = .host h.used := by
  obtain ⟨op, st, units, busy, index, axis⟩ := h
  obtain rfl | rfl | rfl | rfl | rfl | rfl | rfl | rfl := cmdOp_cases op
  · rfl
  · simp [decodeHost, HostPorts.used, encode, ofBool_decide_eq_one]
  · simp [decodeHost, HostPorts.used, encode, ofBool_decide_eq_one]
  · simp [decodeHost, HostPorts.used, encode, Machine.Axis.code_ofCode]
  · rfl
  · rfl
  · rfl
  · rfl

theorem encode_decodeTransport (e : TransportPorts) : encode (decodeTransport e) = .transport e.used := by
  obtain ⟨tev, d⟩ := e
  obtain rfl | rfl | rfl | rfl := tev_cases tev <;> rfl

/-- What the decoder reads of a port word is the encoding of what it decodes to. -/
theorem encode_decode {w : PortWord} {i : Instr} (h : decode w = .ok i) : encode i = w.used := by
  cases w with
  | record w =>
    cases h
    exact encode_decodeRecordWord w
  | host h' =>
    cases h
    exact encode_decodeHost h'
  | transport e =>
    cases h
    exact encode_decodeTransport e
  | resetPin r =>
    simp only [decode] at h
    split at h
    · rename_i hr
      cases h
      rw [hr]
      rfl
    · cases h

/-- The ports hold every operand that fits them (00_scope.md R6, R7). -/
theorem decode_encode {p : Params} {i : Instr} (h : i.wellFormed p = true) : decode (encode i) = .ok i := by
  cases i with
  | recX v => exact decode_encode_record .x v
  | recY v => exact decode_encode_record .y v
  | recZ v => exact decode_encode_record .z v
  | recT v => exact decode_encode_record .t v
  | cfg st => cases st <;> rfl
  | issue units busy =>
    have hunits : (BitVec.ofNat 16 units).toNat = units := by
      rw [BitVec.toNat_ofNat]
      exact Nat.mod_eq_of_lt (of_decide_eq_true h)
    have hbusy : decide (BitVec.ofBool busy = 1) = busy := by cases busy <;> rfl
    exact congrArg Except.ok (congrArg₂ Instr.issue hunits hbusy)
  | get index axis => exact congrArg (Except.ok <| Instr.get index ·) (Machine.Axis.ofCode_code axis)
  | nop | release | reserved101 | reserved110 | reserved111 | teIdle | byte | doneOk | doneFail | reset => rfl

/-! The rows of the opcode table (30_encoding.md R71, R76, R77). -/

/-- spec/opcode_table.json: the rows of the operations, in the table's order. -/
def opcodeTable : List Row :=
  [ (Instr.recX 0).row, (Instr.recY 0).row, (Instr.recZ 0).row, (Instr.recT 0).row,
    Instr.nop.row, (Instr.cfg false).row, (Instr.issue 0 false).row, (Instr.get 0 .x).row, Instr.release.row,
    Instr.reserved101.row, Instr.reserved110.row, Instr.reserved111.row,
    Instr.teIdle.row, (Instr.byte 0).row, Instr.doneOk.row, Instr.doneFail.row, Instr.reset.row ]

theorem row_mem_opcodeTable (i : Instr) : i.row ∈ opcodeTable := by
  cases i <;> simp [opcodeTable, Instr.row]

/-- Rows of one format test the same bits, and no two of them ask for the same pattern. -/
theorem opcodeTable_exclusive : ∀ r ∈ opcodeTable, ∀ q ∈ opcodeTable, r.format = q.format →
    r.mask = q.mask ∧ (r.pattern = q.pattern → r = q) := by
  decide

theorem encodesItsRow (i : Instr) : Laws.EncodesItsRow.Statement i := by
  cases i with
  | recX v => exact Laws.EncodesItsRow.recX v
  | recY v => exact Laws.EncodesItsRow.recY v
  | recZ v => exact Laws.EncodesItsRow.recZ v
  | recT v => exact Laws.EncodesItsRow.recT v
  | nop => exact Laws.EncodesItsRow.nop
  | cfg st => exact Laws.EncodesItsRow.cfg st
  | issue units busy => exact Laws.EncodesItsRow.issue units busy
  | get index axis => exact Laws.EncodesItsRow.get index axis
  | release => exact Laws.EncodesItsRow.release
  | reserved101 => exact Laws.EncodesItsRow.reserved101
  | reserved110 => exact Laws.EncodesItsRow.reserved110
  | reserved111 => exact Laws.EncodesItsRow.reserved111
  | teIdle => exact Laws.EncodesItsRow.teIdle
  | byte d => exact Laws.EncodesItsRow.byte d
  | doneOk => exact Laws.EncodesItsRow.doneOk
  | doneFail => exact Laws.EncodesItsRow.doneFail
  | reset => exact Laws.EncodesItsRow.reset

@[simp] theorem PortWord.format_used (w : PortWord) : w.used.format = w.format := by cases w <;> rfl

/-- The operand ports are no part of the bits a row tests. -/
@[simp] theorem PortWord.code_used (w : PortWord) : w.used.code = w.code := by
  cases w with
  | record | resetPin => rfl
  | host h =>
    simp only [used, code, HostPorts.used]
    split_ifs <;> rfl
  | transport e =>
    simp only [used, code, TransportPorts.used]
    split_ifs <;> rfl

/-- A word stands on the ports of the row it decodes to and matches that row. -/
theorem decode_matches_row {w : PortWord} {i : Instr} (h : decode w = .ok i) :
    i.row.format = w.format ∧ w.code &&& i.row.mask = i.row.pattern := by
  obtain ⟨hformat, hcode⟩ := encodesItsRow i
  rw [encode_decode h] at hformat hcode
  exact ⟨by rw [← hformat, w.format_used], by rw [← hcode, w.code_used]⟩

/-- Settles O1: the record rows keep the tag above the value bits, and the ports of `ISSUE` hold the operands that fit. -/
theorem decodeOfEncodeGivesTheOperation : Obligations.DecodeOfEncodeGivesTheOperation :=
  fun _ _ => decode_encode

/-- Settles O2, by cases on the group of ports. -/
theorem encodeOfDecodeGivesTheUsedPorts : Obligations.EncodeOfDecodeGivesTheUsedPorts :=
  fun _ _ => encode_decode

/-- Settles O5: the word matches its own row, and another row of the format tests the same bits for another pattern. -/
theorem eachWordMatchesOneRow : Obligations.EachWordMatchesOneRow := by
  intro w i j h hj
  obtain ⟨hi, hmatch⟩ := decode_matches_row h
  obtain ⟨hmask, hpattern⟩ := opcodeTable_exclusive _ (row_mem_opcodeTable j) _ (row_mem_opcodeTable i) (hj.trans hi.symm)
  refine ⟨hi, fun hw => hpattern ?_, fun hrow => hrow ▸ hmatch⟩
  rw [← hw, hmask, hmatch]

/-- Settles O3: each of the words evaluates. -/
theorem writtenOutWordsDecode : Obligations.WrittenOutWordsDecode :=
  ⟨rfl, rfl, rfl, rfl, rfl, rfl, rfl, rfl, rfl, rfl, rfl⟩

/-- Settles O4: the four clauses are one fact about the four axis numbers. -/
theorem recordWordIsTagThenValueBits : Obligations.RecordWordIsTagThenValueBits :=
  fun _ _ hv => ⟨decode_record_of_tag .x hv, decode_record_of_tag .y hv, decode_record_of_tag .z hv,
    decode_record_of_tag .t hv⟩

end Sys2Proof
end

section
/-! PROOFS. Steps and clocks (30_encoding.md R80): a step is its first label executed, and which labels a clock presents. -/

namespace Sys2Proof.Machine

/-- The step of a state with a waiting port word that decodes. -/
theorem step_of_inputs_cons {s : State} {w : PortWord} {rest : List PortWord} {i : Instr} (hin : s.inputs = w :: rest)
    (hw : decode w = .ok i) : step s = exec i { s with inputs := rest } := by
  simp only [step, hin, hw]

/-- The step of a clock presented to a state with nothing waiting executes the first of the clock's labels. -/
theorem step_presentClock {s : State} {c : Clock} {w : PortWord} {rest : List PortWord} {i : Instr} (hin : s.inputs = [])
    (hc : c.labels = w :: rest) (hw : decode w = .ok i) :
    step (s.presentClock c) = exec i { s with inputs := rest } :=
  step_of_inputs_cons (s := s.presentClock c) (by simp [State.presentClock, hin, hc]) hw

end Sys2Proof.Machine

namespace Sys2Proof

open Machine

section
variable {c : Clock}

theorem Clock.labels_of_no_reset (hrst : c.rst = 0) :
    c.labels =
      if c.transport.tev = 0 then [.host c.host]
      else if c.host.cmdOp = 0 then [.transport c.transport]
      else [.transport c.transport, .host c.host] :=
  if_neg (by rw [hrst]; decide)

theorem Clock.labels_of_idle (hrst : c.rst = 0) (htev : c.transport.tev = 0) : c.labels = [.host c.host] := by
  rw [labels_of_no_reset hrst, if_pos htev]

theorem Clock.labels_of_nop (hrst : c.rst = 0) (htev : c.transport.tev ≠ 0) (hop : c.host.cmdOp = 0) :
    c.labels = [.transport c.transport] := by
  rw [labels_of_no_reset hrst, if_neg htev, if_pos hop]

theorem Clock.labels_of_event_and_command (hrst : c.rst = 0) (htev : c.transport.tev ≠ 0) (hop : c.host.cmdOp ≠ 0) :
    c.labels = [.transport c.transport, .host c.host] := by
  rw [labels_of_no_reset hrst, if_neg htev, if_neg hop]

end

/-- Settles O6: the step decodes the word presented next. -/
theorem stepRunsTheDecodedOperation : Obligations.StepRunsTheDecodedOperation :=
  fun _ _ _ _ hin hw => step_of_inputs_cons hin hw

/-- Settles O8: the clock presents the event and then the command, and the event's step leaves the command waiting. -/
theorem eventThenCommandInOneClock : Obligations.EventThenCommandInOneClock := by
  intro s c e k hin hrst htev hop he hk
  have hevent := step_presentClock hin (Clock.labels_of_event_and_command hrst htev hop) he
  refine ⟨hevent, fun t ht => ?_⟩
  obtain ⟨-, -, hwait⟩ := configurationIsStable e _ t (hevent.symm.trans ht)
  exact ⟨hwait, step_of_inputs_cons hwait hk⟩

/-- Settles O60: in both cases the clock presents one label and the step leaves nothing waiting. -/
theorem clockOfOneLabelIsOneStep : Obligations.ClockOfOneLabelIsOneStep := by
  intro s c i hin hrst
  have honly : ∀ w, c.labels = [w] → decode w = .ok i → step (s.presentClock c) = exec i s := fun w hc hw => by
    rw [step_presentClock hin hc hw, withInputs_self hin]
  exact ⟨fun htev => honly _ (Clock.labels_of_idle hrst htev), fun htev hop => honly _ (Clock.labels_of_nop hrst htev hop)⟩

/-- Settles O30: the idle event drives quiet outputs over the state as it was. -/
theorem idleEventHasNoEffect : Obligations.IdleEventHasNoEffect :=
  fun s => ⟨(s.quiet none).out, s.freeCount + 1, rfl, rfl, rfl, rfl, rfl⟩

end Sys2Proof
end

section
/-! PROOFS. The bytes a transfer delivers (30_encoding.md R81, 42_realigner.md R126) and the record they make
(40_codec.md R90, R91). -/

namespace Sys2Proof.Machine

/-! The codec's round trip. -/

theorem decodeRecord_encodeRecord (t : Tag) (v : Int) :
    decodeRecord (encodeRecord t v).1 (encodeRecord t v).2 = (t, sext16 (BitVec.ofInt 14 v)) := by
  have htag : byteTag (encodeRecord t v).1 = t := BitVec.extractLsb'_append_eq_left
  have hhigh : (encodeRecord t v).1.extractLsb' 0 6 = (BitVec.ofInt 14 v).extractLsb' 8 6 :=
    BitVec.extractLsb'_append_eq_right
  have hraw : raw14 (encodeRecord t v).1 (encodeRecord t v).2 = BitVec.ofInt 14 v := by
    rw [raw14, hhigh]
    exact (BitVec.extractLsb'_append_extractLsb'_eq_extractLsb' rfl).trans BitVec.extractLsb'_eq_self
  rw [decodeRecord, htag, hraw]

/-- Either record order reads back what it wrote (20_memory.md R56). -/
theorem decodeInOrder_encodeInOrder (order : RecOrder) (t : Tag) (v : Int) :
    decodeInOrder order (encodeInOrder order t v).1 (encodeInOrder order t v).2 = (t, sext16 (BitVec.ofInt 14 v)) := by
  cases order <;> exact decodeRecord_encodeRecord t v

/-- 14 bits in two's complement hold -8192 to 8191, and `sext_16` keeps the value. -/
theorem toInt_sext16_ofInt {v : Int} (hlow : -8192 ≤ v) (hhigh : v ≤ 8191) : (sext16 (BitVec.ofInt 14 v)).toInt = v := by
  rw [sext16, BitVec.toInt_signExtend_of_le (by decide)]
  exact BitVec.toInt_ofInt_eq_self (by decide) (by omega) (by omega)

/-! Delivered bytes. -/

theorem runAll_cons_of_next {i : Instr} {s t : State} (h : exec i s = .next t) (is : List Instr) :
    runAll (i :: is) s = runAll is t := by
  simp only [runAll, h]

/-- A transfer takes every byte that its announced length still has room for (42_realigner.md R126): the bytes are written
from the write offset on and counted, and beside that only the step's own outputs and the counter of free values change. -/
theorem runAll_bytesLabels {bs : List Byte} {s : State} (hp : s.phase = .pending)
    (hlen : s.wrCount + bs.length ≤ s.xferLen) (hcap : s.carryBytes + s.xferLen ≤ s.params.capacity) :
    ∃ m o n, storeBytes s.params s.buf s.writeOffset bs = .ok m ∧
      runAll (bytesLabels bs) s =
        some { s with buf := m, wrCount := s.wrCount + bs.length, out := o, freeCount := n } := by
  induction bs generalizing s with
  | nil => exact ⟨s.buf, s.out, s.freeCount, rfl, rfl⟩
  | cons b bs ih =>
    rw [List.length_cons] at hlen ⊢
    have hoff : s.writeOffset < s.params.capacity := by
      rw [State.writeOffset]
      omega
    obtain ⟨m, o, n, hm, hrun⟩ := ih
      (s := ({ s with buf := s.buf.put s.writeOffset b, wrCount := s.wrCount + 1 } : State).quiet none) hp
      (show s.wrCount + 1 + bs.length ≤ s.xferLen by omega) hcap
    refine ⟨m, o, n, ?store, ?run⟩
    case store =>
      have hb : storeByte s.params s.buf s.writeOffset b = .ok (s.buf.put s.writeOffset b) :=
        storeByte_ok_iff.2 ⟨hoff, rfl⟩
      simp only [storeBytes, hb]
      exact hm
    case run =>
      rw [Nat.add_comm bs.length, ← Nat.add_assoc]
      exact (runAll_cons_of_next (i := .byte b) (execByte_of_accepted hp (by omega) hoff) _).trans hrun

theorem byte?_of_storeBytes {p : Params} {m m' : Memory} {a : Nat} {bs : List Byte} (h : storeBytes p m a bs = .ok m')
    {j : Nat} (hj : j < bs.length) : m'.byte? (a + j) = bs[j]? := by
  rw [(storeBytes_ok h).1, if_pos (by omega), Nat.add_sub_cancel_left]

/-- An encoded record reads back from where it was written (40_codec.md R92). -/
theorem loadRecord_of_storeBytes_encode {p : Params} {m m' : Memory} {a : Nat} {t : Tag} {v : Int}
    (hcap : a + 1 < p.capacity)
    (h : storeBytes p m a [(encodeInOrder p.recOrder t v).1, (encodeInOrder p.recOrder t v).2] = .ok m') :
    loadRecord p m' a = .ok (t, sext16 (BitVec.ofInt 14 v)) :=
  loadRecord_ok_iff.2 ⟨hcap, _, _, byte?_of_storeBytes h (j := 0) Nat.two_pos,
    byte?_of_storeBytes h (j := 1) Nat.one_lt_two, (decodeInOrder_encodeInOrder ..).symm⟩

end Sys2Proof.Machine

namespace Sys2Proof

open Machine

/-- Settles O16: the transfer stores the two bytes of the record where it stands, and the codec reads them back in the order
they were written. -/
theorem recPseudoOperationDeliversTheRecord : Obligations.RecPseudoOperationDeliversTheRecord := by
  intro s t v hlow hhigh hp hlen hcap
  obtain ⟨m, o, n, hm, hrun⟩ := runAll_bytesLabels
    (bs := [(encodeInOrder s.params.recOrder t v).1, (encodeInOrder s.params.recOrder t v).2]) hp hlen hcap
  have hinside : s.carryBytes + s.wrCount + 1 < s.params.capacity := by omega
  exact ⟨_, _, hrun, rfl, rfl, loadRecord_of_storeBytes_encode hinside hm, toInt_sext16_ofInt hlow hhigh⟩

end Sys2Proof
end

section
/-! PROOFS. The sample codec as arithmetic on bytes (40_codec.md R90 to R92, 30_encoding.md R70 to R72) and what `GET` reads
with it (40_codec.md R93, R94). -/

namespace Sys2Proof.Machine

/-! The bits of a record as numbers. -/

theorem toNat_append_eq {m n : Nat} (x : BitVec m) (y : BitVec n) : (x ++ y).toNat = x.toNat * 2 ^ n + y.toNat := by
  rw [BitVec.toNat_append, ← Nat.shiftLeft_add_eq_or_of_lt y.isLt, Nat.shiftLeft_eq]

theorem byteTag_toNat (b : Byte) : (byteTag b).toNat = b.toNat / 64 := by
  rw [byteTag, BitVec.extractLsb'_toNat, Nat.shiftRight_eq_div_pow]
  omega

theorem raw14_toNat (b0 b1 : Byte) : (raw14 b0 b1).toNat = b0.toNat % 64 * 256 + b1.toNat := by
  rw [raw14, toNat_append_eq, BitVec.extractLsb'_toNat, Nat.shiftRight_zero]
  rfl

/-- `sext_16` keeps the two's complement value. -/
theorem toInt_sext16 (v : Raw14) : (sext16 v).toInt = v.toInt := BitVec.toInt_signExtend_of_le (by decide)

theorem toInt_sext16_eq_ite (v : Raw14) :
    (sext16 v).toInt = if v.toNat < 8192 then (v.toNat : Int) else (v.toNat : Int) - 16384 := by
  have hmsb : 2 * v.toNat < 2 ^ 14 ↔ v.toNat < 8192 := by omega
  rw [toInt_sext16, BitVec.toInt_eq_toNat_cond]
  simp only [hmsb]
  rfl

theorem toInt_sext16_range (v : Raw14) : -8192 ≤ (sext16 v).toInt ∧ (sext16 v).toInt ≤ 8191 := by
  rw [toInt_sext16]
  exact ⟨v.le_toInt, Int.le_of_lt_add_one v.toInt_lt⟩

theorem ofInt14_toNat (v : Int) : ((BitVec.ofInt 14 v).toNat : Int) = v % 16384 := by
  rw [BitVec.toNat_ofInt]
  exact Int.toNat_of_nonneg (Int.emod_nonneg v (by decide))

/-! `Decode` and `Encode` (40_codec.md R90 to R92). -/

/-- The bytes that `Encode` gives, for every value (out of range it stands for its remainder modulo 16384). -/
theorem encodeRecord_toNat (t : Tag) (v : Int) :
    ((encodeRecord t v).1.toNat : Int) = t.toNat * 64 + v % 16384 / 256 ∧
    ((encodeRecord t v).2.toNat : Int) = v % 16384 % 256 := by
  have hraw := ofInt14_toNat v
  constructor
  · rw [encodeRecord, toNat_append_eq, BitVec.extractLsb'_toNat, Nat.shiftRight_eq_div_pow]
    omega
  · rw [encodeRecord, BitVec.extractLsb'_toNat, Nat.shiftRight_zero]
    omega

theorem encodeRecord_decodeRecord (b0 b1 : Byte) :
    encodeRecord (decodeRecord b0 b1).1 (decodeRecord b0 b1).2.toInt = (b0, b1) := by
  have hraw : BitVec.ofInt 14 (decodeRecord b0 b1).2.toInt = raw14 b0 b1 := by
    rw [decodeRecord, toInt_sext16, BitVec.ofInt_toInt]
  have hhigh : (raw14 b0 b1).extractLsb' 8 6 = b0.extractLsb' 0 6 := BitVec.extractLsb'_append_eq_left
  have hlow : (raw14 b0 b1).extractLsb' 0 8 = b1 := BitVec.extractLsb'_append_eq_right
  have hfirst : byteTag b0 ++ b0.extractLsb' 0 6 = b0 :=
    (BitVec.extractLsb'_append_extractLsb'_eq_extractLsb' rfl).trans BitVec.extractLsb'_eq_self
  simp only [encodeRecord, hraw, hhigh, hlow]
  exact congrArg (·, b1) hfirst

/-! The record rows: the codec at its own input (30_encoding.md R70, R71). -/

theorem exec_record (a : Axis) (v : Raw14) (s : State) :
    exec (.record a v) s = .next (s.answerRecord (a.code, sext16 v)) := by
  cases a <;> rfl

theorem recordTag_bytes (b0 b1 : Byte) : recordTag (b0 ++ b1) = byteTag b0 := by
  apply BitVec.eq_of_toNat_eq
  rw [recordTag_toNat, toNat_append_eq, byteTag_toNat]
  omega

theorem recordRaw_bytes (b0 b1 : Byte) : recordRaw (b0 ++ b1) = raw14 b0 b1 := by
  apply BitVec.eq_of_toNat_eq
  rw [recordRaw_toNat, toNat_append_eq, raw14_toNat]
  omega

/-- A record word is answered with `Decode` of its two bytes (40_codec.md R92 (d)). -/
theorem exec_decodeRecordWord (s : State) (b0 b1 : Byte) :
    exec (decodeRecordWord (b0 ++ b1)) s = .next (s.answerRecord (decodeRecord b0 b1)) := by
  rw [decodeRecordWord_eq, exec_record, Axis.code_ofCode, recordTag_bytes, recordRaw_bytes, decodeRecord]

/-! `GET` (40_codec.md R93, R94). -/

theorem axisPresent_eq_true_iff {st : Bool} {axis : Axis} : axisPresent st axis = true ↔ (axis = .t → st = true) := by
  simp [axisPresent, or_iff_not_imp_right]

theorem answersWith_of_quiet {i : Instr} {s u : State} {r : Option Resp} (h : exec i s = .next (u.quiet r)) :
    AnswersWith i s u r :=
  ⟨(u.quiet r).out, u.freeCount + 1, h, rfl, rfl, rfl, rfl⟩

theorem two_dvd_setSize (st : Bool) : 2 ∣ setSize st := by
  cases st <;> decide

/-- Records stand at even offsets when the first does (20_memory.md R53). -/
theorem two_dvd_recordOffset {start : Nat} (h : 2 ∣ start) (st : Bool) (index : Nat) (axis : Axis) :
    2 ∣ recordOffset start (setSize st) index axis :=
  (h.add ((two_dvd_setSize st).mul_right index)).add (Nat.dvd_mul_right 2 _)

/-- Where a sample is published the sets begin before `bytesFilled`, so the detector found an X record, at an even offset
(10_state.md R33 (f)). -/
theorem Invariant.two_dvd_startOffset {s : State} (h : Invariant s) (hs : 0 < s.sampleCount) : 2 ∣ s.startOffset := by
  have hsets := h.samples_le_bytesFilled
  exact h.startEven.resolve_right (by omega)

end Sys2Proof.Machine

namespace Sys2Proof

open Machine

/-- Settles O13: what is encoded is read back, fourteen bits stand for -8192 to 8191, and a record row answers `Decode` of the
bytes of its word. -/
theorem codecRoundTripsAndRange : Obligations.CodecRoundTripsAndRange := by
  refine ⟨fun t v hlow hhigh => ?decodeEncode, encodeRecord_decodeRecord, fun b0 b1 => toInt_sext16_range _,
    fun s b0 b1 i hi => ?row⟩
  case decodeEncode =>
    rw [decodeRecord_encodeRecord]
    exact ⟨rfl, toInt_sext16_ofInt hlow hhigh⟩
  case row =>
    obtain rfl : decodeRecordWord (b0 ++ b1) = i := Except.ok.inj hi
    exact ⟨_, exec_decodeRecordWord s b0 b1, answerRecord_codec s _⟩

/-- Settles O17: each refusal drives quiet outputs over the state as it was; with both bytes of the record in the buffer the
answer is their `Decode`, in the record order of the parameters. -/
theorem getAnswersTheDecodedRecord : Obligations.GetAnswersTheDecodedRecord := by
  intro s index axis
  refine ⟨fun hp => ?phase, fun hp hi => ?index, fun hp _ ha hst => ?axis, fun hp hi ha off b0 b1 hoff hcap h0 h1 => ?answer⟩
  case phase => exact answersWith_of_quiet (execGet_of_not_complete hp)
  case index => exact answersWith_of_quiet (execGet_of_no_sample hp (.inl hi))
  case axis =>
    have habsent : axisPresent s.storeTemp axis = false := by rw [ha, hst]; rfl
    exact answersWith_of_quiet (execGet_of_no_sample hp (.inr habsent))
  case answer =>
    subst hoff
    have hx := execGet_of_sample hp hi (axisPresent_eq_true_iff.2 ha) (loadRecord_ok_iff.2 ⟨hcap, b0, b1, h0, h1, rfl⟩)
    refine ⟨_, hx, rfl, rfl, rfl, rfl, fun horder => ?hiFirst, fun horder => ?loFirst⟩
    case hiFirst => exact congrArg (decodeInOrder · b0 b1) horder
    case loFirst => exact congrArg (decodeInOrder · b0 b1) horder

/-- Settles O11: both halves of the decoded record as arithmetic on its bytes. -/
theorem decodeIsTagAndSignExtendedValue : Obligations.DecodeIsTagAndSignExtendedValue := by
  intro b0 b1
  refine ⟨byteTag_toNat b0, ?_⟩
  have hvalue := toInt_sext16_eq_ite (raw14 b0 b1)
  rw [raw14_toNat] at hvalue
  rw [decodeRecord, hvalue]
  simp only [← Nat.cast_lt (α := Int)]
  rfl

/-- Settles O12: the bytes of `Encode` are those of the value modulo 16384, in range and beyond it. -/
theorem encodeGivesTagAndLowBits : Obligations.EncodeGivesTagAndLowBits :=
  fun t v _ _ => encodeRecord_toNat t v

/-- Settles O14: each of the four rows is the record of its axis. -/
theorem recordRowsAnswerTagAndValue : Obligations.RecordRowsAnswerTagAndValue := by
  intro s v i tag hrow
  obtain ⟨a, rfl, rfl⟩ : ∃ a, i = .record a v ∧ tag = a.code := by
    obtain h | h | h | h := hrow
    exacts [⟨.x, h⟩, ⟨.y, h⟩, ⟨.z, h⟩, ⟨.t, h⟩]
  exact ⟨(s.answerRecord (a.code, sext16 v)).out, s.freeCount + 1, sext16 v, exec_record a v s, rfl,
    toInt_sext16_eq_ite v, rfl, rfl, rfl⟩

/-- Settles O18: the record lies within its set, the sets within the fill, and the fill within the buffer; with a sample
published the sets begin at an even offset. -/
theorem legalGetStaysInsideTheSets : Obligations.LegalGetStaysInsideTheSets := by
  intro s index axis h hp hi ha
  have hstart := h.two_dvd_startOffset (Nat.zero_lt_of_lt hi)
  rw [Nat.mul_comm s.setSize]
  exact ⟨recordOffset_add_two_le hi ha, Nat.le_of_add_right_le (h.carryEq hp).le, h.filledFits,
    two_dvd_recordOffset hstart s.storeTemp index axis⟩

/-- Settles O19: the record of a legal `GET` has been written, so it is answered. -/
theorem legalGetIsAnswered : Obligations.LegalGetIsAnswered := by
  intro s index axis h hp hi ha
  have hpresent := axisPresent_eq_true_iff.2 ha
  obtain ⟨d, hd⟩ := h.loadRecord_isOk hp hi hpresent
  exact ⟨(s.respondSample d).out, execGet_of_sample hp hi hpresent hd, respondSample_resp s d⟩

end Sys2Proof
end

section
/-! PROOFS. What the detector reads and finds (41_boundary_detector.md R110 to R112), and how the machine goes on after a
fill without an X record (R113, 60_exceptions.md R154). -/

namespace Sys2Proof.Machine

/-! The scan reads the tag bits of the records it examines, and nothing else. -/

/-- A load sees of two bytes with one tag, or of two missing bytes, the same fault or that tag. -/
theorem loadByte_of_same_tag {p : Params} {m m' : Memory} {a : Nat}
    (h : (m'.byte? a).map byteTag = (m.byte? a).map byteTag) :
    (∃ f, loadByte p m' a = .error f ∧ loadByte p m a = .error f) ∨
      ∃ b' b, loadByte p m' a = .ok b' ∧ loadByte p m a = .ok b ∧ byteTag b' = byteTag b := by
  by_cases hc : a < p.capacity
  · cases hb : m.byte? a with
    | none =>
      have hb' : m'.byte? a = none := by simpa [hb] using h
      exact .inl ⟨.unwrittenByte a, by simp [loadByte, hc, hb'], by simp [loadByte, hc, hb]⟩
    | some b =>
      obtain ⟨b', hb', htag⟩ : ∃ b', m'.byte? a = some b' ∧ byteTag b' = byteTag b := by simpa [hb] using h
      exact .inr ⟨b', b, loadByte_ok_iff.2 ⟨hc, hb'⟩, loadByte_ok_iff.2 ⟨hc, hb⟩, htag⟩
  · exact .inl ⟨.outsideBuffer a, if_neg hc, if_neg hc⟩

theorem scanFrom_congr_tags {p : Params} {m m' : Memory} {n : Nat}
    (h : ∀ off, 2 ∣ off → tagOffset p.recOrder off < n →
      (m'.byte? (tagOffset p.recOrder off)).map byteTag = (m.byte? (tagOffset p.recOrder off)).map byteTag)
    (fuel : Nat) {off : Nat} (heven : 2 ∣ off) : scanFrom p m' n fuel off = scanFrom p m n fuel off := by
  induction fuel generalizing off with
  | zero => rfl
  | succ fuel ih =>
    have hnext := ih (heven.add (Nat.dvd_refl 2))
    by_cases htag : tagOffset p.recOrder off < n
    · obtain ⟨f, hl', hl⟩ | ⟨b', b, hl', hl, hsame⟩ := loadByte_of_same_tag (p := p) (h off heven htag)
      · simp only [scanFrom, if_pos htag, hl', hl]
      · simp only [scanFrom, if_pos htag, hl', hl, hsame, hnext]
    · simp only [scanFrom, if_neg htag, hnext]

/-- The scan completes when the tag bytes of the records in the fill are there. -/
theorem scanFrom_isOk_of_tags {p : Params} {m : Memory} {n : Nat} (hc : n ≤ p.capacity)
    (hw : ∀ off, 2 ∣ off → tagOffset p.recOrder off < n → (m.byte? (tagOffset p.recOrder off)).isSome)
    (fuel : Nat) {off : Nat} (heven : 2 ∣ off) : ∃ r, scanFrom p m n fuel off = .ok r := by
  induction fuel generalizing off with
  | zero => exact ⟨off, rfl⟩
  | succ fuel ih =>
    have hnext := ih (heven.add (Nat.dvd_refl 2))
    by_cases hin : off < n
    · by_cases htag : tagOffset p.recOrder off < n
      · obtain ⟨b, hb⟩ := Option.isSome_iff_exists.1 (hw off heven htag)
        have hl : loadByte p m (tagOffset p.recOrder off) = .ok b := loadByte_ok_iff.2 ⟨htag.trans_le hc, hb⟩
        by_cases hx : byteTag b = Axis.x.code
        · exact ⟨off, by simp only [scanFrom, if_pos hin, if_pos htag, hl, if_pos hx]⟩
        · simpa only [scanFrom, if_pos hin, if_pos htag, hl, if_neg hx] using hnext
      · simpa only [scanFrom, if_pos hin, if_neg htag] using hnext
    · exact ⟨off, by simp only [scanFrom, if_neg hin]⟩

/-! What the detector finds. -/

/-- The scan stops before the end of the fill exactly when an X record stands at an even offset. -/
theorem findStart_found_iff {p : Params} {m : Memory} {n start : Nat} {found : Bool}
    (h : findStart p m n = .ok (start, found)) :
    found = true ↔ ∃ off, 2 ∣ off ∧ off < n ∧ IsXRecord p m n off := by
  obtain ⟨-, hfound, -, hx, hpassed⟩ := findStart_ok h
  constructor
  · intro hf
    obtain ⟨heven, hxrec⟩ := hx hf
    exact ⟨start, heven, hfound.1 hf, hxrec⟩
  · rintro ⟨off, heven, hlt, hxrec⟩
    refine hfound.2 (lt_of_not_ge fun hend => ?_)
    exact (hpassed off (hlt.trans_le hend) heven).not_isX hxrec

theorem findStart_eq_end_of_not_found {p : Params} {m : Memory} {n start : Nat}
    (h : findStart p m n = .ok (start, false)) : start = n := by
  obtain ⟨hle, hfound, -⟩ := findStart_ok h
  exact hle.antisymm (not_lt.1 fun hlt => nomatch hfound.2 hlt)

/-- Under `HI_FIRST` a record's tag byte is its first. -/
theorem isXRecord_of_hiFirst {p : Params} (hp : p.recOrder = .hiFirst) (m : Memory) (n off : Nat) :
    IsXRecord p m n off ↔ off < n ∧ (m.byte? off).map byteTag = some 0 := by
  rw [IsXRecord, hp]
  rfl

theorem isPassedRecord_of_hiFirst {p : Params} (hp : p.recOrder = .hiFirst) (m : Memory) (n off : Nat) :
    IsPassedRecord p m n off ↔ (off < n → ∃ b, m.byte? off = some b ∧ byteTag b ≠ 0) := by
  rw [IsPassedRecord, hp]
  rfl

/-! A fill without an X record and the transfer after it. -/

/-- `DONE_OK` on a non-empty fill without an X record reports `desync` and gives neither a sample nor a carry
(41_boundary_detector.md R113). -/
theorem execDoneOk_of_no_xRecord {s : State} (h : Invariant s) (hp : s.phase = .pending)
    (hfill : 0 < s.wrCount + s.carryBytes)
    (hno : ∀ off, 2 ∣ off → ¬ IsXRecord s.params s.buf (s.wrCount + s.carryBytes) off) :
    ∃ t, execDoneOk s = .next t ∧ t.phase = .complete ∧ t.desync = true ∧ t.sampleCount = 0 ∧ t.carryBytes = 0 ∧
      t.startOffset = t.bytesFilled ∧ t.setSize = s.setSize := by
  obtain ⟨r, tail, hr, ht⟩ := h.doneOk_isOk hp
  obtain ⟨hfind, -⟩ := realign_ok s.setSize_pos hr
  have hfound : r.found = false := by
    rw [← Bool.not_eq_true, findStart_found_iff hfind]
    rintro ⟨off, heven, -, hx⟩
    exact hno off heven hx
  obtain ⟨hstart, hcount, hcarry⟩ := realign_of_not_found s.setSize_pos hr hfound
  exact ⟨_, execDoneOk_of_pending hp hr ht, rfl, desyncFlag_eq_true_iff.2 ⟨hfound, hfill⟩, hcount,
    congrArg (Fin.ofNat 8) hcarry, hstart, rfl⟩

/-- With a set pending an `ISSUE` in `Free` is answered `OK`, and the first byte of its transfer lands right behind the carry
(42_realigner.md R123, R126). -/
theorem execIssue_then_first_byte {s : State} {units : Nat} (hp : s.phase = .free) (hset : s.setSize ≤ units * 2)
    (d : Byte) :
    ∃ v w, execIssue units false s = .next v ∧ v.out.resp = some .ok ∧ execByte d v = .next w ∧ w.wrCount = 1 ∧
      w.buf.byte? s.carryBytes = some d := by
  have hn : 1 ≤ s.requestedSamples units :=
    Nat.one_le_iff_ne_zero.2 fun h0 => hset.not_gt ((s.requestedSamples_eq_zero units).1 h0)
  have hroom : (s.carryBytes : Nat) < s.params.capacity := by
    have := s.params.capacity_ge
    have := s.carryBytes.isLt
    omega
  obtain ⟨m, -, hissue⟩ := execIssue_of_accepted hp hn
  exact ⟨_, _, hissue, rfl, execByte_of_accepted rfl (Nat.mul_pos hn s.setSize_pos) hroom, rfl,
    Memory.byte?_put_same _ _ d⟩

end Sys2Proof.Machine

namespace Sys2Proof

open Machine

/-- Settles O21: the laws of the scan with the tag byte of a record at its own offset. -/
theorem findStartProperties : Obligations.FindStartProperties := by
  intro p m n horder
  refine ⟨fun start found h => ?result, rfl, fun m' htags => ?congr⟩
  case result =>
    obtain ⟨hle, hfound, heven, hx, hpassed⟩ := findStart_ok h
    have passed : ∀ off, 2 ∣ off → off < start → ∃ b, m.byte? off = some b ∧ byteTag b ≠ 0 := fun off hoff hlt =>
      (isPassedRecord_of_hiFirst horder m n off).1 (hpassed off hlt hoff) (hlt.trans_le hle)
    refine ⟨hle, hfound, fun hf => ?found, fun hf => ?none, heven, fun hin => ?even, fun hn htag => ?first⟩
    case found =>
      obtain ⟨hstart, hxrec⟩ := hx hf
      exact ⟨hstart, ((isXRecord_of_hiFirst horder m n start).1 hxrec).2, passed⟩
    case none =>
      subst hf
      obtain rfl := findStart_eq_end_of_not_found h
      exact ⟨rfl, passed⟩
    case even => exact heven.resolve_right (by omega)
    case first =>
      refine Nat.eq_zero_of_not_pos fun hpos => ?_
      exact (hpassed 0 hpos (Nat.dvd_zero 2)).not_isX ((isXRecord_of_hiFirst horder m n 0).2 ⟨hn, htag⟩)
  case congr =>
    have hscan : ∀ fuel, scanFrom p m' n fuel 0 = scanFrom p m n fuel 0 := fun fuel =>
      scanFrom_congr_tags (by rw [horder]; exact htags) fuel (Nat.dvd_zero 2)
    simp only [findStart, hscan]

/-- Settles O22: the scan reads only tag bytes of records at even offsets. -/
theorem findStartCompletesOnAWrittenFill : Obligations.FindStartCompletesOnAWrittenFill := by
  intro p m n hc hw
  obtain ⟨r, hr⟩ := scanFrom_isOk_of_tags hc hw ((n + 1) / 2) (Nat.dvd_zero 2)
  exact ⟨min r n, decide (r < n), by simp only [findStart, hr]⟩

/-- Settles O56: the fill is reported and carries nothing, so behind the `RELEASE` the first byte of the next transfer lands
behind an empty carry. -/
theorem desyncIsReportedAndRecovers : Obligations.DesyncIsReportedAndRecovers := by
  intro s h hp horder hfill hno
  rw [Nat.add_comm] at hfill hno
  have hnox : ∀ off, 2 ∣ off → ¬ IsXRecord s.params s.buf (s.wrCount + s.carryBytes) off := fun off heven hx => by
    obtain ⟨hlt, htag⟩ := (isXRecord_of_hiFirst horder ..).1 hx
    exact hno off heven hlt htag
  obtain ⟨t, hdone, hcomplete, hdesync, hcount, hcarry, hstart, hsize⟩ := execDoneOk_of_no_xRecord h hp hfill hnox
  refine ⟨t, _, hdone, hcomplete, hdesync, hcount, hcarry, hstart, execRelease_of_complete hcomplete,
    fun units d hset => ?_⟩
  obtain ⟨v, w, hissue, hok, hbyte, hwr, hbuf⟩ := execIssue_then_first_byte
    (s := ({ t with phase := .free } : State).quiet (some .ok)) rfl (hsize.trans_le hset) d
  exact ⟨v, w, hissue, hok, hbyte, hwr, (congrArg (w.buf.byte? ·.val) hcarry).symm.trans hbuf⟩

end Sys2Proof
end

section
/-! PROOFS. `Realign` and the completions (42_realigner.md R127 to R129, R133), and why the published results stay true of the
buffer while the reader owns it (R128, 20_memory.md R61). -/

namespace Sys2Proof.Machine

/-- The flag as the spec words it: no X record in a non-empty fill (41_boundary_detector.md R113). -/
theorem desyncFlag_eq_decide (found : Bool) (n : Nat) : desyncFlag found n = decide (found = false ∧ 0 < n) := by
  rw [Bool.eq_iff_iff, desyncFlag_eq_true_iff, decide_eq_true_iff]

/-- In a fill that begins with an X record, or is empty, the sets begin at offset 0 and no desync is reported. -/
theorem realign_of_first_xRecord {p : Params} {m : Memory} {n size : Nat} {r : Realigned} (horder : p.recOrder = .hiFirst)
    (hs : 0 < size) (hr : realign p m n size = .ok r) (hx : 0 < n → (m.byte? 0).map byteTag = some 0) :
    r.start = 0 ∧ r.count = n / size ∧ r.carryNext = n % size ∧ desyncFlag r.found n = false := by
  obtain ⟨hfind, hcount, hcarry, -⟩ := realign_ok hs hr
  obtain ⟨hle, hfound, -, -, hpassed⟩ := findStart_ok hfind
  have hstart : r.start = 0 := Nat.eq_zero_of_not_pos fun hpos =>
    have hn : 0 < n := hpos.trans_le hle
    (hpassed 0 hpos (Nat.dvd_zero 2)).not_isX ((isXRecord_of_hiFirst horder m n 0).2 ⟨hn, hx hn⟩)
  rw [hstart, Nat.sub_zero] at hcount hcarry
  refine ⟨hstart, hcount, hcarry, Bool.eq_false_iff.2 fun hd => ?_⟩
  obtain ⟨hnot, hn⟩ := desyncFlag_eq_true_iff.1 hd
  rw [hfound.2 (hstart.trans_lt hn)] at hnot
  cases hnot

/-- What a completion publishes is the realignment of the buffer, which it does not write; the tail is in the first carry
registers. -/
theorem publishedMatchBuffer_publish {s : State} {n : Nat} {r : Realigned} {tail : List Byte}
    (hr : realign s.params s.buf n s.setSize = .ok r)
    (ht : loadBytes s.params s.buf (r.start + r.count * s.setSize) r.carryNext = .ok tail) :
    PublishedMatchBuffer (publish n r tail s) := by
  obtain ⟨hfit, hlt⟩ := realign_carry_fits hr
  have hlen : tail.length = r.carryNext := (loadBytes_ok_iff.1 ht).1
  have hle : tail.length ≤ 7 := by
    have := s.setSize_le
    omega
  intro _ _
  refine ⟨r.found, ?_, rfl, ?_⟩ <;> simp only [publish_carryBytes, hfit]
  · exact hr
  · have hfirst : (s.carry.load tail).first r.carryNext = tail := hlen ▸ CarryStore.first_load _ _ hle
    exact ht.trans (congrArg Except.ok hfirst.symm)

/-- Every effect leaves `Complete`, or publishes a failure, or a realignment, or changes nothing that the published results
speak of. -/
theorem Effect.publishedMatchBuffer {i : Instr} {s u : State} {r : Option Resp} (he : Effect s i r u)
    (h : PublishedMatchBuffer s) : PublishedMatchBuffer u := by
  cases he with
  | unchanged | breach => exact h
  | issue | release | reset => exact nofun
  | cfg _ hp => exact fun hc => nomatch hp.symm.trans hc
  | byte _ hp => exact fun hc => nomatch hp.symm.trans hc
  | doneOk r tail _ hr ht => exact publishedMatchBuffer_publish hr ht
  | doneFail => exact fun _ => nofun

end Sys2Proof.Machine

namespace Sys2Proof

open Machine

/-- Settles O52: a step is the effect of one label, and each effect keeps the published results true of the buffer; after
reset nothing is published. -/
theorem publishedResultsStayTrueOfTheBuffer : Obligations.PublishedResultsStayTrueOfTheBuffer := by
  refine ⟨fun s t h hstep => ?step, fun p => nofun⟩
  case step =>
    obtain ⟨i, ws, hx⟩ := step_next hstep
    obtain ⟨_, u, o, n, he, -, rfl⟩ := exec_effect hx
    exact he.publishedMatchBuffer h

/-- Settles O32: the tail, whose bytes are there, goes into the carry store in order, and its length is a remainder that the
carry count holds. -/
theorem doneOkPublishesTheRealignment : Obligations.DoneOkPublishesTheRealignment := by
  intro s
  refine ⟨fun hp => ?breach, fun hp start found => ?pending⟩
  case breach => exact answersWith_of_quiet (execDoneOk_of_breach hp)
  case pending =>
    intro size n count hcap hfind hw
    have hr := realign_eq (sz := s.setSize) hfind
    obtain ⟨-, -, -, hsum⟩ := realign_ok s.setSize_pos hr
    obtain ⟨hfit, hlt⟩ := realign_carry_fits hr
    obtain ⟨tail, ht⟩ := loadBytes_isOk (hsum.trans_le hcap) fun k hk =>
      hw _ (Nat.le_add_right _ k) ((Nat.add_lt_add_left hk _).trans_eq hsum)
    obtain ⟨hlen, hread⟩ := loadBytes_ok_iff.1 ht
    have hstore := CarryStore.getElem?_load s.carry tail (by have := s.setSize_le; omega)
    refine ⟨s.carry.load tail, Fin.ofNat 8 (n - start - count * size), (s.quiet none).out, s.freeCount + 1, ?published,
      ⟨rfl, rfl, rfl, rfl⟩, hfit, fun j hj => ?kept, fun j hj => ?beyond⟩
    case published =>
      rw [← desyncFlag_eq_decide]
      exact execDoneOk_of_pending hp hr ht
    case kept =>
      have hj : j < n - start - count * size := hj.trans_eq hfit
      rw [hstore, if_pos (hj.trans_eq hlen.symm)]
      exact (hread j hj).2.symm
    case beyond =>
      have hj : n - start - count * size ≤ j := hfit.symm.trans_le hj
      rw [hstore, if_neg (hlen.trans_le hj).not_gt]

/-- Settles O33: the fill of a state that meets the invariant has been written, so its realignment succeeds; the invariant
of the state it leaves gives the equation and the bound of the carry. -/
theorem doneOkCompletesInPending : Obligations.DoneOkCompletesInPending := by
  intro s h hp
  obtain ⟨r, tail, hr, ht⟩ := h.doneOk_isOk hp
  have hx : exec .doneOk s = .next _ := execDoneOk_of_pending hp hr ht
  have hinv := exec_invariant h hx
  exact ⟨_, hx, rfl, Nat.add_comm _ _, hinv.carryEq rfl, hinv.carryLt, rfl, rfl⟩

/-- Settles O57: the whole fill is the carry and `n` sets behind it, and the carry is less than a set. -/
theorem steadyStateKeepsTheCarry : Obligations.SteadyStateKeepsTheCarry := by
  intro s n h hp horder hall hlen htag
  obtain ⟨r, tail, hr, ht⟩ := h.doneOk_isOk hp
  obtain ⟨hstart, hcount, hcarry, -⟩ := realign_of_first_xRecord horder s.setSize_pos hr fun _ => htag
  have hfill : s.wrCount + s.carryBytes = s.carryBytes + n * s.setSize := by rw [hall, hlen, Nat.add_comm]
  rw [hfill, Nat.add_mul_div_right _ _ s.setSize_pos, Nat.div_eq_of_lt h.carryLt, Nat.zero_add] at hcount
  rw [hfill, Nat.add_mul_mod_self_right, Nat.mod_eq_of_lt h.carryLt] at hcarry
  exact ⟨_, execDoneOk_of_pending hp hr ht, hfill, hstart, hcount, Fin.ext ((realign_carry_fits hr).1.trans hcarry)⟩

/-- Settles O24: quotient and remainder of what follows the start. -/
theorem realignProperties : Obligations.RealignProperties := by
  intro p m n size start found hsize hfind
  have hpos : 0 < size := by omega
  have hr := realign_eq (sz := size) hfind
  obtain ⟨-, -, hmod, hsum⟩ := realign_ok hpos hr
  have hlt : (n - start) % size < size := Nat.mod_lt _ hpos
  exact ⟨_, _, hr, rfl, hmod, hsum, hmod.trans_le (Nat.le_sub_one_of_lt hlt), realign_of_not_found hpos hr⟩

end Sys2Proof
end

section
/-! PROOFS. The operations of the realigner case by case (42_realigner.md R120 to R126, R129 to R131): sizing, the host
commands and the transport events, each with its refusals. -/

namespace Sys2Proof.Machine

/-- The carry count is at most 7 and every legal `CAPACITY` more. -/
theorem carryBytes_le_capacity (s : State) : (s.carryBytes : Nat) ≤ s.params.capacity := by
  have := s.params.capacity_ge
  have := s.carryBytes.isLt
  omega

/-- What `ISSUE` asks for fits beside the carry (42_realigner.md R121). -/
theorem carryBytes_add_requested_le (s : State) (units : Nat) :
    s.carryBytes + s.requestedSamples units * s.setSize ≤ s.params.capacity :=
  sizing_fits (carryBytes_le_capacity s)

/-- No label but `ISSUE` announces a transfer (42_realigner.md R131). -/
theorem xferStart_of_not_issue {i : Instr} {s t : State} (hi : ∀ units busy, i ≠ .issue units busy)
    (h : exec i s = .next t) : t.out.xferStart = false := by
  cases i with
  | recX | recY | recZ | recT | nop | reserved101 | reserved110 | reserved111 | teIdle | reset =>
    cases h
    rfl
  | issue units busy => exact absurd rfl (hi units busy)
  | cfg => obtain ⟨-, rfl⟩ | ⟨-, rfl⟩ := execCfg_next h <;> rfl
  | get => obtain ⟨-, rfl⟩ | ⟨-, -, rfl⟩ | ⟨-, -, -, d, -, rfl⟩ := execGet_next h <;> rfl
  | release => obtain ⟨-, rfl⟩ | ⟨-, rfl⟩ := execRelease_next h <;> rfl
  | byte => obtain ⟨-, rfl⟩ | ⟨-, -, -, rfl⟩ := execByte_next h <;> rfl
  | doneOk => obtain ⟨-, rfl⟩ | ⟨-, r, tail, -, -, rfl⟩ := execDoneOk_next h <;> rfl
  | doneFail => obtain ⟨-, rfl⟩ | ⟨-, rfl⟩ := execDoneFail_next h <;> rfl

/-- A step announces no transfer, being no `ISSUE` answered `OK`, or it is the accepted `ISSUE` (42_realigner.md R123). -/
theorem exec_announces {i : Instr} {s t : State} (h : exec i s = .next t) :
    (t.out.xferStart = false ∧ ((∃ units busy, i = .issue units busy) → t.out.resp ≠ some .ok)) ∨
    ∃ units m, i = .issue units false ∧ s.phase = .free ∧ 1 ≤ s.requestedSamples units ∧
      t = ({ s with
          buf := m, xferLen := s.requestedSamples units * s.setSize, wrCount := 0,
          phase := .pending } : State).respondIssued (s.requestedSamples units) := by
  by_cases hi : ∃ units busy, i = .issue units busy
  · obtain ⟨units, busy, rfl⟩ := hi
    obtain ⟨-, rfl⟩ | ⟨-, -, rfl⟩ | ⟨-, -, -, rfl⟩ | ⟨hp, rfl, hn, m, -, ht⟩ := execIssue_next h
    · exact .inl ⟨rfl, nofun⟩
    · exact .inl ⟨rfl, nofun⟩
    · exact .inl ⟨rfl, nofun⟩
    · exact .inr ⟨units, m, rfl, hp, hn, ht⟩
  · exact .inl ⟨xferStart_of_not_issue (fun units busy he => hi ⟨units, busy, he⟩) h, fun he => absurd he hi⟩

end Sys2Proof.Machine

namespace Sys2Proof

open Machine

/-- Settles O27: each refusal drives quiet outputs over the state as it was; the accepted `ISSUE` writes the carried bytes to the
front of the buffer and starts the transfer it sized. -/
theorem issueSizesAndStartsTheTransfer : Obligations.IssueSizesAndStartsTheTransfer := by
  intro s units busy size n
  refine ⟨fun hp => ?phase, fun hp hb => ?busy, fun hp hb hn => ?few, fun hp hb hn => ?accepted⟩
  case phase => exact answersWith_of_quiet (execIssue_of_not_free hp)
  case busy =>
    subst hb
    exact answersWith_of_quiet (execIssue_of_busy hp)
  case few =>
    subst hb
    exact answersWith_of_quiet (execIssue_of_too_few hp (Nat.lt_one_iff.1 hn))
  case accepted =>
    subst hb
    obtain ⟨m, hm, hx⟩ := execIssue_of_accepted hp hn
    exact ⟨m, (s.respondIssued n).out, s.freeCount + 1, hx, rfl, rfl, rfl, rfl,
      fun a ha => (issue_buffer hm a).trans (if_pos ha), fun a ha => (issue_buffer hm a).trans (if_neg ha.not_gt),
      carryBytes_add_requested_le s units⟩

/-- Settles O31: a byte stored at the write offset is read back there and nowhere else. -/
theorem byteIsStoredAtTheWriteOffset : Obligations.ByteIsStoredAtTheWriteOffset := by
  refine fun s d => ⟨fun hp hw hc => ?accepted, fun hb => ?breach⟩
  case accepted =>
    exact ⟨s.buf.put s.writeOffset d, (s.quiet none).out, s.freeCount + 1, execByte_of_accepted hp hw hc,
      ⟨rfl, rfl, rfl, rfl⟩, Memory.byte?_put_same _ _ d, fun a ha => Memory.byte?_put_other _ d ha⟩
  case breach => exact answersWith_of_quiet (execByte_of_breach hb)

/-- Settles O36: the row of each operation from the cases of that operation. -/
theorem phaseMachineTable : Obligations.PhaseMachineTable := by
  intro i s t h
  refine ⟨?nop, ?cfg, ?issue, ?get, ?release, ?reserved, ?byte, ?done⟩
  case nop =>
    rintro rfl
    cases h
    exact ⟨rfl, rfl⟩
  case cfg =>
    rintro st rfl
    obtain ⟨hp, rfl⟩ | ⟨hp, rfl⟩ := execCfg_next h
    · exact ⟨rfl, by rw [if_neg hp]; rfl⟩
    · exact ⟨rfl, by rw [if_pos hp]; rfl⟩
  case issue =>
    rintro units busy rfl
    obtain ⟨hp, rfl⟩ | ⟨hp, -, rfl⟩ | ⟨hp, -, -, rfl⟩ | ⟨hp, -, -, m, -, rfl⟩ := execIssue_next h
    · exact .inr (.inr ⟨hp, rfl, rfl⟩)
    · exact .inr (.inl ⟨hp, hp, .inl rfl⟩)
    · exact .inr (.inl ⟨hp, hp, .inr rfl⟩)
    · exact .inl ⟨hp, rfl, rfl⟩
  case get =>
    rintro index axis rfl
    obtain ⟨hp, rfl⟩ | ⟨hp, -, rfl⟩ | ⟨hp, -, -, d, -, rfl⟩ := execGet_next h
    · exact ⟨rfl, fun hc => absurd hc hp, fun _ => rfl⟩
    · exact ⟨rfl, fun _ => .inr rfl, fun hn => absurd hp hn⟩
    · exact ⟨rfl, fun _ => .inl rfl, fun hn => absurd hp hn⟩
  case release =>
    rintro rfl
    obtain ⟨hp, rfl⟩ | ⟨hp, rfl⟩ := execRelease_next h
    · exact ⟨fun hc => absurd hc hp, fun _ => ⟨rfl, rfl⟩⟩
    · exact ⟨fun _ => ⟨rfl, rfl⟩, fun hn => absurd hp hn⟩
  case reserved => rintro (rfl | rfl | rfl) <;> cases h <;> exact ⟨rfl, rfl⟩
  case byte =>
    rintro d rfl
    obtain ⟨hb, rfl⟩ | ⟨hp, hw, -, rfl⟩ := execByte_next h
    · exact ⟨rfl, rfl, fun hp hw => absurd ⟨hp, hw⟩ hb, fun _ => rfl⟩
    · exact ⟨rfl, rfl, fun _ _ => ⟨rfl, rfl⟩, fun hb => absurd hb (not_or.2 ⟨not_not.2 hp, hw.not_ge⟩)⟩
  case done =>
    rintro (rfl | rfl)
    · obtain ⟨hp, rfl⟩ | ⟨hp, r, tail, -, -, rfl⟩ := execDoneOk_next h
      · exact ⟨rfl, fun hc => absurd hc hp, fun _ => ⟨rfl, rfl⟩⟩
      · exact ⟨rfl, fun _ => ⟨rfl, rfl⟩, fun hn => absurd hp hn⟩
    · obtain ⟨hp, rfl⟩ | ⟨hp, rfl⟩ := execDoneFail_next h
      · exact ⟨rfl, fun hc => absurd hc hp, fun _ => ⟨rfl, rfl⟩⟩
      · exact ⟨rfl, fun _ => ⟨rfl, rfl⟩, fun hn => absurd hp hn⟩

/-- Settles O42: the accepted `ISSUE` is sized to fit beside the carry, and every other step announces nothing. -/
theorem transferAnnouncedOnlyByAcceptedIssue : Obligations.TransferAnnouncedOnlyByAcceptedIssue := by
  intro i s t h
  obtain ⟨hno, hnot⟩ | ⟨units, m, rfl, hp, hn, rfl⟩ := exec_announces h
  · rw [hno]
    exact ⟨⟨nofun, fun ⟨hi, hok⟩ => absurd hok (hnot hi)⟩, nofun⟩
  · have hphase : s.phase ≠ .pending := fun hc => nomatch hp.symm.trans hc
    exact ⟨⟨fun _ => ⟨⟨units, false, rfl⟩, rfl⟩, fun _ => rfl⟩, fun _ => ⟨hphase, rfl, rfl,
      Nat.mul_pos hn s.setSize_pos, Nat.le_sub_of_add_le' (carryBytes_add_requested_le s units)⟩⟩

/-- Settles O7: the empty list of waiting labels is the first case of a step. -/
theorem stepWithNothingPresentedIsNop : Obligations.StepWithNothingPresentedIsNop := by
  intro s hin
  simp only [step, hin]

/-- Settles O23: the clamp keeps the transfer beside the carry and, with room for a set in every legal buffer, gives 0 only
for too few bytes. -/
theorem sizingClampsToWholeSets : Obligations.SizingClampsToWholeSets :=
  fun s units => ⟨rfl, s.requestedSamples_eq_zero units, carryBytes_add_requested_le s units⟩

/-- Settles O25: `NOP` drives quiet outputs over the state as it was. -/
theorem nopAnswersOk : Obligations.NopAnswersOk :=
  fun _ => answersWith_of_quiet rfl

/-- Settles O26, by the phase. -/
theorem cfgWritesStoreTempInFree : Obligations.CfgWritesStoreTempInFree :=
  fun _ _ => ⟨fun hp => answersWith_of_quiet (execCfg_of_not_free hp), fun hp => answersWith_of_quiet (execCfg_of_free hp)⟩

/-- Settles O28, by the phase. -/
theorem releaseFreesTheBuffer : Obligations.ReleaseFreesTheBuffer :=
  fun _ => ⟨fun hp => answersWith_of_quiet (execRelease_of_not_complete hp),
    fun hp => answersWith_of_quiet (execRelease_of_complete hp)⟩

/-- Settles O34, by the phase. -/
theorem doneFailPublishesTheFailure : Obligations.DoneFailPublishesTheFailure :=
  fun _ => ⟨fun hp => answersWith_of_quiet (execDoneFail_of_pending hp),
    fun hp => answersWith_of_quiet (execDoneFail_of_breach hp)⟩

/-- Settles O35: each event is a breach of the contract, the `BYTE` also when the transfer has all its bytes. -/
theorem refusedEventOnlySetsProtoErr : Obligations.RefusedEventOnlySetsProtoErr := by
  refine fun s => ⟨fun hp => ?doneOk, fun hp => ?doneFail, fun d => ⟨fun hp => ?phase, fun hall => ?full⟩⟩
  case doneOk => exact answersWith_of_quiet (execDoneOk_of_breach hp)
  case doneFail => exact answersWith_of_quiet (execDoneFail_of_breach hp)
  case phase => exact answersWith_of_quiet (execByte_of_breach fun h => hp h.1)
  case full => exact answersWith_of_quiet (execByte_of_breach fun h => h.2.ne hall)

end Sys2Proof
end

section
/-! PROOFS. Whole transfers, from `ISSUE` to `DONE_OK`: the bound of the fill (42_realigner.md R132 (c), R153), and a stream of
Sample Sets read cycle by cycle, each from where the last one stopped (R132 (b)). -/

namespace Sys2Proof.Machine

theorem runAll_append (is js : List Instr) (s : State) : runAll (is ++ js) s = (runAll is s).bind (runAll js) := by
  induction is generalizing s with
  | nil => rfl
  | cons i is ih =>
    simp only [List.cons_append, runAll]
    split
    · exact ih _
    · rfl
    · rfl

theorem runAll_singleton {i : Instr} {s t : State} : runAll [i] s = some t ↔ exec i s = .next t := by
  simp only [runAll]
  split <;> simp_all

/-! The bound of the fill. -/

/-- A transfer of `len` bytes behind a carry of `carry` bytes is in flight and has had at most its `len` bytes. -/
structure InFlight (s : State) (carry len : Nat) : Prop where
  phase : s.phase = .pending
  carryBytes : s.carryBytes = carry
  xferLen : s.xferLen = len
  wrLe : s.wrCount ≤ len

theorem InFlight.byte {s t : State} {d : Byte} {carry len : Nat} (h : InFlight s carry len)
    (hx : exec (.byte d) s = .next t) : InFlight t carry len := by
  obtain ⟨-, rfl⟩ | ⟨-, hw, -, rfl⟩ := execByte_next hx
  · exact ⟨h.phase, h.carryBytes, h.xferLen, h.wrLe⟩
  · exact ⟨h.phase, h.carryBytes, h.xferLen, hw.trans_eq h.xferLen⟩

/-- Surplus bytes are refused, so the transfer never grows beyond its length (60_exceptions.md R153). -/
theorem InFlight.runAll {events : List Instr} {s t : State} {carry len : Nat} (h : InFlight s carry len)
    (hbytes : ∀ e ∈ events, ∃ d, e = .byte d) (hrun : runAll events s = some t) : InFlight t carry len := by
  induction events generalizing s with
  | nil =>
    cases hrun
    exact h
  | cons e events ih =>
    obtain ⟨u, hx, hrest⟩ := runAll_cons hrun
    obtain ⟨d, rfl⟩ := hbytes e List.mem_cons_self
    exact ih (h.byte hx) (fun e he => hbytes e (List.mem_cons_of_mem _ he)) hrest

theorem InFlight.bytesFilled_le {s t : State} {carry len : Nat} (h : InFlight s carry len)
    (hx : exec .doneOk s = .next t) : t.bytesFilled ≤ carry + len := by
  have hwr := h.wrLe
  have hcarry := h.carryBytes
  obtain ⟨hp, -⟩ | ⟨-, r, tail, -, -, rfl⟩ := execDoneOk_next hx
  · exact absurd h.phase hp
  · show s.wrCount + s.carryBytes ≤ carry + len
    omega

/-! A stream in the buffer and in the carry store. -/

/-- The carry store holds the stream from its byte `pos` on. -/
def CarriesFrom (s : State) (bytes : List Byte) (pos : Nat) : Prop :=
  ∀ k : Nat, k < s.carryBytes → s.carry[k]? = bytes[pos + k]?

/-- The bytes of the cycle are those of the stream from its byte `pos` on. -/
def HoldsFrom (s : State) (bytes : List Byte) (pos : Nat) : Prop :=
  ∀ k, k < s.validBytes → s.buf.byte? k = bytes[pos + k]?

/-- `s` has read `n` bytes of the stream, carry included, from its set `first` on: the sets among them are published, and what
is left is carried (42_realigner.md R128). -/
structure HasRead (s : State) (bytes : List Byte) (first n : Nat) : Prop where
  phase : s.phase = .complete
  noDesync : s.desync = false
  samples : s.sampleCount = n / s.setSize
  carry : (s.carryBytes : Nat) = n % s.setSize
  carried : CarriesFrom s bytes ((first + s.sampleCount) * s.setSize)
  reads : ReadsSamples s s.storeTemp bytes first

/-- Every set of a stream begins with an X record. -/
theorem SampleStream.tag_of_set {st : Bool} {sets : Nat} {bytes : List Byte} (h : SampleStream st sets bytes) {i : Nat}
    (hi : i * setSize st < bytes.length) : (bytes[i * setSize st]?).map byteTag = some 0 := by
  rw [h.length] at hi
  rw [Nat.mul_comm]
  exact h.tags i .x (Nat.lt_of_mul_lt_mul_right hi) (by cases st <;> rfl)

/-- The tail of a published fill stands in the carry store. -/
theorem PublishedMatchBuffer.carry_eq {s : State} (h : PublishedMatchBuffer s) (hp : s.phase = .complete)
    (hok : s.xferFail = false) {k : Nat} (hk : k < s.carryBytes) :
    s.carry[k]? = s.buf.byte? (s.startOffset + s.sampleCount * s.setSize + k) := by
  obtain ⟨_, -, -, ht⟩ := h hp hok
  rw [((loadBytes_ok_iff.1 ht).2 k hk).2, CarryStore.getElem?_first _ hk]

/-- Published sets that begin at offset 0, over the stream's bytes from a set on, are read as the stream's samples. -/
theorem readsSamples_of_holdsFrom {s : State} {bytes : List Byte} {first : Nat} (h : Invariant s)
    (hp : s.phase = .complete) (horder : s.params.recOrder = .hiFirst) (hstart : s.startOffset = 0)
    (hholds : HoldsFrom s bytes (first * s.setSize)) : ReadsSamples s s.storeTemp bytes first := by
  intro index axis hi ha
  obtain ⟨d, hd⟩ := h.loadRecord_isOk hp hi ha
  have hanswer : sampleAnswer s index axis = some d := sampleAnswer_eq_some_iff.2 ⟨hp, hi, ha, hd⟩
  have hin := h.record_inside hp hi ha
  obtain ⟨-, b0, b1, h0, h1, rfl⟩ := loadRecord_ok_iff.1 hd
  have hoff : recordOffset 0 (setSize s.storeTemp) (first + index) axis =
      first * s.setSize + recordOffset s.startOffset s.setSize index axis := by
    rw [hstart]
    simp only [recordOffset, State.setSize]
    ring
  rw [hholds _ (Nat.lt_of_succ_lt hin)] at h0
  rw [hholds _ hin] at h1
  refine ⟨by rw [hanswer]; rfl, hanswer.trans ?_⟩
  simp only [streamSample, hoff, Nat.add_assoc, h0, h1, horder, decodeInOrder]

/-- What a cut in mid-set carries over and what follows it are the whole sets that are left. -/
theorem mod_add_rest_eq {cut sets size : Nat} (h : cut ≤ sets * size) :
    cut % size + (sets * size - cut) = (sets - cut / size) * size := by
  have hsplit := Nat.div_add_mod' cut size
  rw [Nat.sub_mul]
  omega

/-! One cycle. -/

/-- An accepted `ISSUE` and the bytes of its transfer put the carry and those bytes into the buffer, one behind the other. -/
theorem runAll_issue_bytes {s : State} {bytes chunk : List Byte} {units pos : Nat} (hp : s.phase = .free)
    (hn : 1 ≤ s.requestedSamples units) (hfit : chunk.length ≤ s.requestedSamples units * s.setSize)
    (hcarry : CarriesFrom s bytes pos) (hchunk : chunk <+: bytes.drop (pos + s.carryBytes)) :
    ∃ u, runAll (.issue units false :: bytesLabels chunk) s = some u ∧ u.phase = .pending ∧ u.params = s.params ∧
      u.storeTemp = s.storeTemp ∧ u.wrCount + u.carryBytes = s.carryBytes + chunk.length ∧ HoldsFrom u bytes pos := by
  obtain ⟨m, hm, hissue⟩ := execIssue_of_accepted hp hn
  obtain ⟨m', o, n, hm', hrun⟩ := runAll_bytesLabels
    (s := ({ s with
      buf := m, xferLen := s.requestedSamples units * s.setSize, wrCount := 0,
      phase := .pending } : State).respondIssued (s.requestedSamples units))
    rfl ((Nat.zero_add _).trans_le hfit) (carryBytes_add_requested_le s units)
  refine ⟨_, (runAll_cons_of_next (i := .issue units false) hissue _).trans hrun, rfl, rfl, rfl, ?_, fun k hk => ?_⟩
  · show 0 + chunk.length + s.carryBytes = s.carryBytes + chunk.length
    omega
  · have hk : k < s.carryBytes + (0 + chunk.length) := hk
    have hread := (storeBytes_ok hm').1 k
    show m'.byte? k = _
    by_cases hfront : k < s.carryBytes
    · rw [hread, if_neg (fun hge => hge.1.not_gt hfront)]
      exact (issue_buffer hm k).trans ((if_pos hfront).trans (hcarry k hfront))
    · obtain ⟨j, rfl⟩ := Nat.exists_eq_add_of_le (Nat.le_of_not_lt hfront)
      have hj : j < chunk.length := by omega
      obtain ⟨rest, hrest⟩ := hchunk
      rw [← Nat.add_assoc, ← List.getElem?_drop, ← hrest, List.getElem?_append_left hj]
      exact byte?_of_storeBytes hm' hj

/-- `DONE_OK` on a fill that holds the stream from a set on reads it. -/
theorem execDoneOk_hasRead {s : State} {bytes : List Byte} {sets first : Nat} (h : Invariant s) (hp : s.phase = .pending)
    (horder : s.params.recOrder = .hiFirst) (hstream : SampleStream s.storeTemp sets bytes)
    (hholds : HoldsFrom s bytes (first * s.setSize)) :
    ∃ t, exec .doneOk s = .next t ∧ t.params = s.params ∧ t.storeTemp = s.storeTemp ∧
      HasRead t bytes first (s.wrCount + s.carryBytes) := by
  obtain ⟨r, tail, hr, ht⟩ := h.doneOk_isOk hp
  have hvalid : s.wrCount + s.carryBytes = s.validBytes := by rw [validBytes_of_pending hp, Nat.add_comm]
  have htag : 0 < s.wrCount + s.carryBytes → (s.buf.byte? 0).map byteTag = some 0 := fun hpos => by
    have hbyte := hholds 0 (hvalid ▸ hpos)
    have hin := h.written 0 (hvalid ▸ hpos)
    rw [hbyte] at hin ⊢
    have hset : first * s.setSize < bytes.length := by simpa using hin
    exact hstream.tag_of_set hset
  obtain ⟨hstart, hcount, hcarry, hdesync⟩ := realign_of_first_xRecord horder s.setSize_pos hr htag
  obtain ⟨-, -, -, hsum⟩ := realign_ok s.setSize_pos hr
  have hfit := (realign_carry_fits hr).1
  have hx : exec .doneOk s = .next _ := execDoneOk_of_pending hp hr ht
  refine ⟨_, hx, rfl, rfl, rfl, hdesync, hcount, hfit.trans hcarry, fun k hk => ?carried, ?reads⟩
  case carried =>
    have hk' : k < r.carryNext := hk.trans_eq hfit
    have htail := (publishedMatchBuffer_publish hr ht).carry_eq rfl rfl hk
    have hpos : first * s.setSize + (r.start + r.count * s.setSize + k) = (first + r.count) * s.setSize + k := by
      rw [hstart]
      ring
    have hin : r.start + r.count * s.setSize + k < s.validBytes := by omega
    exact htail.trans ((hholds _ hin).trans (congrArg (bytes[·]?) hpos))
  case reads =>
    exact readsSamples_of_holdsFrom (exec_invariant h hx) rfl horder hstart fun k hk => hholds k (hvalid ▸ hk)

/-- One cycle from `Free` reads the carried bytes and the bytes of its transfer. -/
theorem runAll_cycle_hasRead {s : State} {bytes chunk : List Byte} {sets units first : Nat} (h : Invariant s)
    (hp : s.phase = .free) (horder : s.params.recOrder = .hiFirst) (hstream : SampleStream s.storeTemp sets bytes)
    (hn : 1 ≤ s.requestedSamples units) (hfit : chunk.length ≤ s.requestedSamples units * s.setSize)
    (hcarry : CarriesFrom s bytes (first * s.setSize))
    (hchunk : chunk <+: bytes.drop (first * s.setSize + s.carryBytes)) :
    ∃ t, runAll (.issue units false :: bytesLabels chunk ++ [.doneOk]) s = some t ∧ t.params = s.params ∧
      t.storeTemp = s.storeTemp ∧ HasRead t bytes first (s.carryBytes + chunk.length) := by
  obtain ⟨u, hrun, hup, huparams, hutemp, hufill, huholds⟩ := runAll_issue_bytes hp hn hfit hcarry hchunk
  have husize : u.setSize = s.setSize := congrArg Machine.setSize hutemp
  have hinv : Invariant u := runAll_induction (fun _ _ _ => exec_invariant) h hrun
  obtain ⟨t, hdone, htparams, httemp, hread⟩ := execDoneOk_hasRead hinv hup (huparams ▸ horder) (hutemp ▸ hstream)
    (husize ▸ huholds)
  refine ⟨t, ?_, htparams.trans huparams, httemp.trans hutemp, hufill ▸ hread⟩
  rw [runAll_append, hrun]
  exact runAll_singleton.2 hdone

/-- The next cycle, behind a `RELEASE`, reads on from where the last one stopped: what that carried stands in front of the new
transfer. -/
theorem HasRead.next_cycle {s : State} {bytes chunk : List Byte} {sets units first n : Nat} (hread : HasRead s bytes first n)
    (h : Invariant s) (horder : s.params.recOrder = .hiFirst) (hstream : SampleStream s.storeTemp sets bytes)
    (hn : 1 ≤ s.requestedSamples units) (hfit : chunk.length ≤ s.requestedSamples units * s.setSize)
    (hchunk : chunk <+: bytes.drop (first * s.setSize + n)) :
    ∃ t, runAll (.release :: .issue units false :: bytesLabels chunk ++ [.doneOk]) s = some t ∧
      t.storeTemp = s.storeTemp ∧ HasRead t bytes (first + s.sampleCount) (s.carryBytes + chunk.length) := by
  have hrelease : exec .release s = .next _ := execRelease_of_complete hread.phase
  have hpos : (first + s.sampleCount) * s.setSize + s.carryBytes = first * s.setSize + n := by
    rw [hread.samples, hread.carry, Nat.add_mul, Nat.add_assoc, Nat.div_add_mod']
  obtain ⟨t, hrun, -, htemp, hnext⟩ := runAll_cycle_hasRead (exec_invariant h hrelease) rfl horder hstream hn hfit
    hread.carried (hpos.symm ▸ hchunk)
  exact ⟨t, (runAll_cons_of_next hrelease _).trans hrun, htemp, hnext⟩

end Sys2Proof.Machine

namespace Sys2Proof

open Machine

/-- Settles O55: the transfer was sized to fit beside the carry, and bytes beyond its length are not stored. -/
theorem fillNeverExceedsCapacity : Obligations.FillNeverExceedsCapacity := by
  intro s u t units events hp hissue hok hbytes hrun
  rw [runAll_append] at hrun
  obtain ⟨v, hrun, hdone⟩ := Option.bind_eq_some_iff.1 hrun
  obtain ⟨-, hnot⟩ | ⟨units', m, -, -, -, hu⟩ := exec_announces hissue
  · exact absurd hok (hnot ⟨units, false, rfl⟩)
  · have hflight : InFlight u s.carryBytes (s.requestedSamples units' * s.setSize) := by
      subst hu
      exact ⟨rfl, rfl, rfl, Nat.zero_le _⟩
    have hle := (hflight.runAll hbytes hrun).bytesFilled_le (runAll_singleton.1 hdone)
    rw [hflight.xferLen]
    exact ⟨hle.trans (carryBytes_add_requested_le s units'), hle⟩

/-- Settles O58: the first cycle reads `cut` bytes from set 0 on, the second the carried ones and the rest from the next set
on, which are whole sets. -/
theorem splitStreamIsReadWholeAndOnce : Obligations.SplitStreamIsReadWholeAndOnce := by
  intro s bytes sets cut units1 units2 h hp hnone horder hstream hcut hn1 hfit1 hn2 hfit2
  have hcarry0 : (s.carryBytes : Nat) = 0 := congrArg Fin.val hnone
  have hlen : bytes.length = sets * s.setSize := hstream.length
  have hlen1 : (bytes.take cut).length = cut := List.length_take_of_le hcut
  obtain ⟨t1, hrun1, hparams1, htemp1, hread1⟩ := runAll_cycle_hasRead (first := 0) h hp horder hstream hn1
    (hlen1.trans_le hfit1) (fun k hk => absurd hk (by omega)) ⟨bytes.drop cut, by simp [hcarry0]⟩
  have hinv1 : Invariant t1 := runAll_induction (fun _ _ _ => exec_invariant) h hrun1
  rw [hcarry0, hlen1, Nat.zero_add] at hread1
  rw [hlen] at hcut
  have hsize1 : t1.setSize = s.setSize := congrArg Machine.setSize htemp1
  have hreq : t1.requestedSamples units2 = sizing units2 s.setSize s.params.capacity (cut % s.setSize) := by
    rw [State.requestedSamples, hparams1, hread1.carry, hsize1]
  obtain ⟨t2, hrun2, htemp2, hread2⟩ := hread1.next_cycle (chunk := bytes.drop cut) hinv1 (hparams1 ▸ horder)
    (htemp1 ▸ hstream) (hreq ▸ hn2) (by rwa [hreq, hsize1, List.length_drop]) (by rw [Nat.zero_mul, Nat.zero_add])
  have hsize2 : t2.setSize = s.setSize := congrArg Machine.setSize (htemp2.trans htemp1)
  have hcount1 : t1.sampleCount = cut / s.setSize := hsize1 ▸ hread1.samples
  have hrest : t1.carryBytes + (bytes.drop cut).length = (sets - t1.sampleCount) * s.setSize := by
    rw [List.length_drop, hlen, hread1.carry, hsize1, hcount1]
    exact mod_add_rest_eq hcut
  have hle : t1.sampleCount ≤ sets := by
    rw [hcount1]
    exact Nat.div_le_of_le_mul (hcut.trans_eq (Nat.mul_comm ..))
  rw [Nat.zero_add, hrest] at hread2
  have hcount2 : t2.sampleCount = sets - t1.sampleCount := by
    rw [hread2.samples, hsize2, Nat.mul_div_cancel _ s.setSize_pos]
  have hcarry2 : (t2.carryBytes : Nat) = 0 := by
    rw [hread2.carry, hsize2, Nat.mul_mod_left]
  exact ⟨t1, t2, hrun1, hrun2, by rw [hcount2, Nat.add_sub_cancel' hle], hread1.noDesync, hread2.noDesync, Fin.ext hcarry2,
    htemp1 ▸ hread1.reads, (htemp2.trans htemp1) ▸ hread2.reads⟩

end Sys2Proof
end

section
/-! PROOFS. What each step answers (60_exceptions.md R151): every refusal with its cause (R152, R156 to R159), `OK`, or no
response; and what the levels `complete`, `desync` and `xferFail` show after a step (R161, R162). -/

namespace Sys2Proof.Machine

/-! Responses. -/

/-- The causes of refusal, one constructor for each: `RefusedWith s i r` says that the command `i` is refused with the code
`r` at `s` (60_exceptions.md R152, R156 to R159). -/
inductive RefusedWith (s : State) : Instr → Resp → Prop
  | cfgPhase (st : Bool) (hp : s.phase ≠ .free) : RefusedWith s (.cfg st) .rejPhase
  | issuePhase (units : Nat) (busy : Bool) (hp : s.phase ≠ .free) : RefusedWith s (.issue units busy) .rejPhase
  | issueBusy (units : Nat) (hp : s.phase = .free) : RefusedWith s (.issue units true) .rejXportBusy
  | issueTooFew (units : Nat) (hp : s.phase = .free) (hn : units * 2 < s.setSize) :
      RefusedWith s (.issue units false) .notReady
  | getPhase (index : Nat) (axis : Axis) (hp : s.phase ≠ .complete) : RefusedWith s (.get index axis) .rejPhase
  | getNoSample (index : Nat) (axis : Axis) (hp : s.phase = .complete)
      (ha : s.sampleCount ≤ index ∨ axis = .t ∧ s.storeTemp = false) : RefusedWith s (.get index axis) .rejArg
  | releasePhase (hp : s.phase ≠ .complete) : RefusedWith s .release .rejPhase
  | reserved101 : RefusedWith s .reserved101 .rejOp
  | reserved110 : RefusedWith s .reserved110 .rejOp
  | reserved111 : RefusedWith s .reserved111 .rejOp

theorem axisPresent_eq_false_iff {st : Bool} {axis : Axis} : axisPresent st axis = false ↔ axis = .t ∧ st = false := by
  rw [Bool.eq_false_iff, Ne, axisPresent_eq_true_iff, Classical.not_imp, Bool.not_eq_true]

section
variable {s t : State} {i : Instr} {r : Resp}

theorem RefusedWith.isHostCommand (h : RefusedWith s i r) : isHostCommand i = true := by
  cases h <;> rfl

/-- A command with a cause of refusal drives quiet outputs over the state as it was. -/
theorem RefusedWith.exec_eq (h : RefusedWith s i r) : exec i s = .next (s.quiet (some r)) := by
  cases h with
  | cfgPhase _ hp => exact execCfg_of_not_free hp
  | issuePhase _ _ hp => exact execIssue_of_not_free hp
  | issueBusy _ hp => exact execIssue_of_busy hp
  | issueTooFew units hp hn => exact execIssue_of_too_few hp ((s.requestedSamples_eq_zero units).2 hn)
  | getPhase _ _ hp => exact execGet_of_not_complete hp
  | getNoSample _ _ hp ha => exact execGet_of_no_sample hp (ha.imp_right axisPresent_eq_false_iff.2)
  | releasePhase hp => exact execRelease_of_not_complete hp
  | reserved101 | reserved110 | reserved111 => rfl

/-- A step refuses for one of the causes and changes nothing, or accepts a host command, or is no host command and has no
response; samples are announced by an accepted `ISSUE` alone (60_exceptions.md R151, 30_encoding.md R78). -/
theorem exec_answers (h : exec i s = .next t) :
    (∃ r, RefusedWith s i r ∧ t = s.quiet (some r)) ∨
    (isHostCommand i = true ∧ t.out.resp = some .ok ∧
      (t.out.respSamples ≠ 0 → ∃ units, i = .issue units false)) ∨
    (isHostCommand i = false ∧ t.out.resp = none ∧ t.out.respSamples = 0) := by
  cases i with
  | recX | recY | recZ | recT | teIdle | reset =>
    cases h
    exact .inr (.inr ⟨rfl, rfl, rfl⟩)
  | nop =>
    cases h
    exact .inr (.inl ⟨rfl, rfl, absurd rfl⟩)
  | reserved101 => exact .inl ⟨_, .reserved101, (Host.Outcome.next.inj h).symm⟩
  | reserved110 => exact .inl ⟨_, .reserved110, (Host.Outcome.next.inj h).symm⟩
  | reserved111 => exact .inl ⟨_, .reserved111, (Host.Outcome.next.inj h).symm⟩
  | cfg st =>
    obtain ⟨hp, ht⟩ | ⟨-, rfl⟩ := execCfg_next h
    · exact .inl ⟨_, .cfgPhase st hp, ht⟩
    · exact .inr (.inl ⟨rfl, rfl, absurd rfl⟩)
  | issue units busy =>
    obtain ⟨hp, ht⟩ | ⟨hp, rfl, ht⟩ | ⟨hp, rfl, hn, ht⟩ | ⟨-, rfl, -, m, -, rfl⟩ := execIssue_next h
    · exact .inl ⟨_, .issuePhase units busy hp, ht⟩
    · exact .inl ⟨_, .issueBusy units hp, ht⟩
    · exact .inl ⟨_, .issueTooFew units hp ((s.requestedSamples_eq_zero units).1 hn), ht⟩
    · exact .inr (.inl ⟨rfl, rfl, fun _ => ⟨units, rfl⟩⟩)
  | get index axis =>
    obtain ⟨hp, ht⟩ | ⟨hp, ha, ht⟩ | ⟨-, -, -, d, -, rfl⟩ := execGet_next h
    · exact .inl ⟨_, .getPhase index axis hp, ht⟩
    · exact .inl ⟨_, .getNoSample index axis hp (ha.imp_right axisPresent_eq_false_iff.1), ht⟩
    · exact .inr (.inl ⟨rfl, rfl, absurd rfl⟩)
  | release =>
    obtain ⟨hp, ht⟩ | ⟨-, rfl⟩ := execRelease_next h
    · exact .inl ⟨_, .releasePhase hp, ht⟩
    · exact .inr (.inl ⟨rfl, rfl, absurd rfl⟩)
  | byte => obtain ⟨-, rfl⟩ | ⟨-, -, -, rfl⟩ := execByte_next h <;> exact .inr (.inr ⟨rfl, rfl, rfl⟩)
  | doneOk => obtain ⟨-, rfl⟩ | ⟨-, r, tail, -, -, rfl⟩ := execDoneOk_next h <;> exact .inr (.inr ⟨rfl, rfl, rfl⟩)
  | doneFail => obtain ⟨-, rfl⟩ | ⟨-, rfl⟩ := execDoneFail_next h <;> exact .inr (.inr ⟨rfl, rfl, rfl⟩)

/-! The causes of each code. -/

theorem refusedWith_notReady_iff :
    RefusedWith s i .notReady ↔ ∃ units, i = .issue units false ∧ s.phase = .free ∧ units * 2 < s.setSize := by
  constructor
  · intro h
    cases h with
    | issueTooFew units hp hn => exact ⟨units, rfl, hp, hn⟩
  · rintro ⟨units, rfl, hp, hn⟩
    exact .issueTooFew units hp hn

theorem refusedWith_rejPhase_iff :
    RefusedWith s i .rejPhase ↔
      ((∃ st, i = .cfg st) ∨ ∃ units busy, i = .issue units busy) ∧ s.phase ≠ .free ∨
      ((∃ index axis, i = .get index axis) ∨ i = .release) ∧ s.phase ≠ .complete := by
  constructor
  · intro h
    cases h with
    | cfgPhase st hp => exact .inl ⟨.inl ⟨st, rfl⟩, hp⟩
    | issuePhase units busy hp => exact .inl ⟨.inr ⟨units, busy, rfl⟩, hp⟩
    | getPhase index axis hp => exact .inr ⟨.inl ⟨index, axis, rfl⟩, hp⟩
    | releasePhase hp => exact .inr ⟨.inr rfl, hp⟩
  · rintro (⟨⟨st, rfl⟩ | ⟨units, busy, rfl⟩, hp⟩ | ⟨⟨index, axis, rfl⟩ | rfl, hp⟩)
    · exact .cfgPhase st hp
    · exact .issuePhase units busy hp
    · exact .getPhase index axis hp
    · exact .releasePhase hp

theorem refusedWith_rejXportBusy_iff :
    RefusedWith s i .rejXportBusy ↔ ∃ units, i = .issue units true ∧ s.phase = .free := by
  constructor
  · intro h
    cases h with
    | issueBusy units hp => exact ⟨units, rfl, hp⟩
  · rintro ⟨units, rfl, hp⟩
    exact .issueBusy units hp

theorem refusedWith_rejArg_iff :
    RefusedWith s i .rejArg ↔
      ∃ index axis, i = .get index axis ∧ s.phase = .complete ∧
        (s.sampleCount ≤ index ∨ axis = .t ∧ s.storeTemp = false) := by
  constructor
  · intro h
    cases h with
    | getNoSample index axis hp ha => exact ⟨index, axis, rfl, hp, ha⟩
  · rintro ⟨index, axis, rfl, hp, ha⟩
    exact .getNoSample index axis hp ha

theorem refusedWith_rejOp_iff :
    RefusedWith s i .rejOp ↔ i = .reserved101 ∨ i = .reserved110 ∨ i = .reserved111 := by
  constructor
  · intro h
    cases h with
    | reserved101 => exact .inl rfl
    | reserved110 => exact .inr (.inl rfl)
    | reserved111 => exact .inr (.inr rfl)
  · rintro (rfl | rfl | rfl)
    · exact .reserved101
    · exact .reserved110
    · exact .reserved111

/-! What a step answers. -/

/-- A code other than `OK` is answered exactly where it has a cause. -/
theorem resp_eq_some_iff_refusedWith (h : exec i s = .next t) (hr : r ≠ .ok) :
    t.out.resp = some r ↔ RefusedWith s i r := by
  constructor
  · intro hresp
    obtain ⟨r', hcause, rfl⟩ | ⟨-, hok, -⟩ | ⟨-, hnone, -⟩ := exec_answers h
    · exact Option.some.inj hresp ▸ hcause
    · exact absurd (Option.some.inj (hresp.symm.trans hok)) hr
    · exact nomatch hresp.symm.trans hnone
  · intro hcause
    obtain rfl : s.quiet (some r) = t := Host.Outcome.next.inj (hcause.exec_eq.symm.trans h)
    rfl

/-- A refused command changes nothing but the step's own outputs and the counter of free values. -/
theorem eq_withOut_of_refused (h : exec i s = .next t) (hnone : t.out.resp ≠ none) (hok : t.out.resp ≠ some .ok) :
    t = { s with out := t.out, freeCount := t.freeCount } := by
  obtain ⟨r, -, rfl⟩ | ⟨-, hr, -⟩ | ⟨-, hr, -⟩ := exec_answers h
  · rfl
  · exact absurd hr hok
  · exact absurd hr hnone

end

/-! The `complete` level. -/

theorem ofBool_eq_zero_iff (b : Bool) : BitVec.ofBool b = 0 ↔ b = false := by cases b <;> decide

theorem completePort_eq_one_iff (s : State) : s.completePort = 1 ↔ s.phase = .complete :=
  (ofBool_eq_one_iff _).trans decide_eq_true_iff

theorem completePort_eq_zero_iff (s : State) : s.completePort = 0 ↔ s.phase ≠ .complete :=
  (ofBool_eq_zero_iff _).trans decide_eq_false_iff_not

end Sys2Proof.Machine

namespace Sys2Proof

open Machine

/-- Settles O38: a refusal answers a host command and announces no samples; otherwise the step accepts a host command or has
no response. -/
theorem exactlyHostCommandsAreAnswered : Obligations.ExactlyHostCommandsAreAnswered := by
  intro i s t h
  obtain ⟨r, hcause, rfl⟩ | ⟨hhost, hok, hsamples⟩ | ⟨hhost, hnone, hzero⟩ := exec_answers h
  · exact ⟨hcause.isHostCommand.symm, absurd rfl⟩
  · rw [hok, hhost]
    exact ⟨rfl, fun hne => (hsamples hne).imp fun _ hi => ⟨hi, rfl⟩⟩
  · rw [hnone, hhost]
    exact ⟨rfl, absurd hzero⟩

/-- Settles O39: each code is answered exactly where it has a cause, and the causes of each code are those of its
constructors. -/
theorem everyRefusalHasItsCauseAndNoEffect : Obligations.EveryRefusalHasItsCauseAndNoEffect := by
  intro i s t h
  have hcode (r : Resp) (hr : r ≠ .ok) := resp_eq_some_iff_refusedWith h hr
  exact ⟨(hcode .notReady nofun).trans refusedWith_notReady_iff,
    (hcode .rejPhase nofun).trans refusedWith_rejPhase_iff,
    (hcode .rejXportBusy nofun).trans refusedWith_rejXportBusy_iff,
    (hcode .rejArg nofun).trans refusedWith_rejArg_iff,
    (hcode .rejOp nofun).trans refusedWith_rejOp_iff, eq_withOut_of_refused h⟩

/-- Settles O41: `complete` shows the phase, and the phase enters `Complete` by a completion only and leaves it by an accepted
`RELEASE` or the reset only. -/
theorem completeLevelRisesAndFalls : Obligations.CompleteLevelRisesAndFalls := by
  refine ⟨completePort_eq_one_iff, fun i s t h => ?_⟩
  simp only [completePort_eq_zero_iff, completePort_eq_one_iff]
  constructor
  case left =>
    intro hs ht
    obtain ⟨_, -, -, hpt, -⟩ | ⟨hi, hp, -⟩ | ⟨-, hps, -⟩ | ⟨-, hpt⟩ :=
      phaseChangesOnlyAlongTheCycle i s t h (fun he => hs (he ▸ ht))
    · exact nomatch hpt.symm.trans ht
    · exact ⟨hi, hp⟩
    · exact absurd hps hs
    · exact nomatch hpt.symm.trans ht
  case right =>
    intro hs ht
    obtain ⟨_, -, hps, -⟩ | ⟨-, -, hpt⟩ | ⟨hi, -, -, hok⟩ | ⟨hi, -⟩ :=
      phaseChangesOnlyAlongTheCycle i s t h (fun he => ht (he ▸ hs))
    · exact nomatch hps.symm.trans hs
    · exact absurd hpt ht
    · exact .inl ⟨hi, hok⟩
    · exact .inr hi

/-- Settles O48: `DONE_OK` reports a desync of a non-empty fill without an X record, whose realignment has neither sets nor a
carry; `DONE_FAIL` clears `desync`. -/
theorem completionFlagsExclude : Obligations.CompletionFlagsExclude := by
  rintro i s t (rfl | rfl) hp h
  · obtain ⟨hb, -⟩ | ⟨-, r, tail, hr, -, rfl⟩ := execDoneOk_next h
    · exact absurd hp hb
    · refine ⟨fun hd => ?_, by simp⟩
      obtain ⟨hfound, hfilled⟩ := desyncFlag_eq_true_iff.1 hd
      obtain ⟨hstart, hcount, hcarry⟩ := realign_of_not_found s.setSize_pos hr hfound
      exact ⟨rfl, congrArg (Fin.ofNat 8) hcarry, hcount, hstart, hfilled⟩
  · obtain ⟨hb, -⟩ | ⟨-, rfl⟩ := execDoneFail_next h
    · exact absurd hp hb
    · exact ⟨nofun, fun _ => rfl, fun _ => rfl⟩

/-- Settles O29: each reserved opcode is refused for its opcode alone. -/
theorem reservedOpcodesAnswerRejOp : Obligations.ReservedOpcodesAnswerRejOp :=
  fun _ => ⟨answersWith_of_quiet (RefusedWith.reserved101).exec_eq, answersWith_of_quiet (RefusedWith.reserved110).exec_eq,
    answersWith_of_quiet (RefusedWith.reserved111).exec_eq⟩

end Sys2Proof
end

section
/-! PROOFS. The reset pin (70_reset_and_hazards.md R180): what `RESET` leaves, and the one label of a clock of a reset. -/

namespace Sys2Proof.Machine

/-- `RESET` clears the registers whatever the phase, and drives outputs without a response. -/
theorem exec_reset (s : State) : exec .reset s = .next (s.cleared.quiet none) := rfl

theorem completePort_of_exec_reset {s t : State} (h : exec .reset s = .next t) : t.completePort = 0 := by
  obtain rfl : s.cleared.quiet none = t := Host.Outcome.next.inj ((exec_reset s).symm.trans h)
  have hfree : (s.cleared.quiet none).phase = .free := rfl
  exact (completePort_eq_zero_iff _).2 (hfree ▸ nofun)

end Sys2Proof.Machine

namespace Sys2Proof

open Machine

/-- A clock of a reset presents the reset pin alone, whatever its command and its event. -/
theorem Clock.labels_of_reset {c : Clock} (hrst : c.rst = 1) : c.labels = [.resetPin 1] := if_pos hrst

/-- Settles O9: `RESET` drives quiet outputs over the cleared registers, and a clock of a reset presents no label but the pin,
so its command and its event are not executed. -/
theorem resetSetsEveryRegister : Obligations.ResetSetsEveryRegister := by
  refine ⟨fun s => ⟨?registers, fun _ => completePort_of_exec_reset⟩, fun s c hrst hin => ?priority⟩
  case registers => exact answersWith_of_quiet (exec_reset s)
  case priority => rw [step_presentClock hin (Clock.labels_of_reset hrst) rfl, withInputs_self hin]

end Sys2Proof
end
